-- ==== Sys2Proof/Word.lean ====
section
/-! DEFINITION. The word types of the block. Every architectural value is 1, 4, 8 or 16 bits wide (10_state.md R20)
and the ports carry 32-bit words (30_encoding.md R80, R85). -/

namespace Sys2Proof

/-- An 8-bit value: a field element or a data byte (00_scope.md R19). -/
abbrev Byte := BitVec 8

/-- A 16-bit value: the operand X and the response VALUE (30_encoding.md R80, R85). -/
abbrev Half := BitVec 16

/-- A 32-bit command or response word (30_encoding.md R80, R85). -/
abbrev Word := BitVec 32

end Sys2Proof
end

