-- ==== Sys2Proof/Config.lean ====
section
/-! DEFINITION. The parameters of an implementation (00_scope.md R8 to R11), the fixed constants of the field (R2, R8),
and the free draws for what reset leaves unspecified (93_implementation_defined.md I1, I2). -/

namespace Sys2Proof

/-- CHIEN_EXP (R11): at which exponent the Chien search evaluates the locator. -/
inductive ChienExp where
  /-- Evaluate at α^(−i): this hardware's value. -/
  | reciprocal
  /-- Evaluate at α^i, as the source's formula is written. -/
  | literal
  deriving DecidableEq, Repr

/-- The parameters a model "takes as arguments of its step relation" (10_state.md R48), with the bounds of
00_scope.md R9 and R10 carried by the data. -/
structure Params where
  tmax : Nat
  dmax : Nat
  chienExp : ChienExp
  tmax_bounds : 1 ≤ tmax ∧ tmax ≤ 127
  dmax_bounds : 1 ≤ dmax ∧ dmax ≤ 65535
  deriving DecidableEq, Repr

namespace Config

/-- PRIM (R8): p(x) = x^8 + x^4 + x^3 + x^2 + 1. -/
def prim : BitVec 9 := 0x11D

/-- n = 2^8 − 1, the number of nonzero field elements (R2, R8). -/
def n : Nat := 255

/-- DESIGN CHOICE (log 2): the parameter values of `State.reset`. TMAX = 4 and DMAX = 32 are those of
95_test_vectors.md; RECIPROCAL is the spec's value for this hardware (R11). -/
def params : Params where
  tmax := 4
  dmax := 32
  chienExp := .reciprocal
  tmax_bounds := by decide
  dmax_bounds := by decide

/-- The memories whose contents reset leaves unspecified (10_state.md R47). -/
inductive Drawn where
  | alphaTo
  | indexOf
  | dbuf
  | ref
  deriving DecidableEq, Repr

/-- The free value of one element after a reset (I1, I2: "one draw per element at reset, held until written"):
nothing constrains it (log 3). The arguments are the memory, the number of the reset, and the index. -/
opaque draw : Drawn → Nat → Nat → BitVec 8

end Config
end Sys2Proof
end

