-- ==== Sys2Proof/Syntax.lean ====
section
/-! DEFINITION. The command set GF8-CMD (30_encoding.md R83): one constructor of `Instr` per row of
spec/opcode_table.json, its operands at their encoded widths (R82); the opcodes and formats that the encoding
tables speak of (R81, R83); and the source lines of the assembler (R89, R90). -/

namespace Sys2Proof

/-- A decoded command with its operands (R83). -/
inductive Instr where
  /-- R170 -/
  | nop
  /-- R103: Y = t -/
  | init (t : Byte)
  /-- R171 -/
  | clrerr
  /-- R112: X[7:0] = a, Y = b -/
  | gfmul (a b : Byte)
  /-- R113: Y = a -/
  | gfinv (a : Byte)
  /-- R114: Y = a -/
  | gflog (a : Byte)
  /-- R115: Y = i -/
  | gfexp (i : Byte)
  /-- R131 -/
  | synd
  /-- R134 -/
  | disc
  /-- R141 -/
  | bma
  /-- R152 -/
  | chien
  /-- R153 -/
  | recover
  /-- R172: X = address, Y = byte -/
  | wrdata (addr : Half) (byte : Byte)
  /-- R173: X = address -/
  | rddata (addr : Half)
  /-- R174: X = length in bytes -/
  | setdlen (len : Half)
  /-- R175: X = index, Y = element -/
  | wrref (idx : Half) (elem : Byte)
  /-- R176: X = index -/
  | rdref (idx : Half)
  /-- R177: X = length in elements -/
  | setrlen (len : Half)
  /-- R178: X = index -/
  | rdsyn (idx : Half)
  /-- R179: X = index -/
  | rddisc (idx : Half)
  /-- R180: X = index -/
  | rdsig (idx : Half)
  /-- R181: X = index -/
  | rdosig (idx : Half)
  /-- R182: Y = register number -/
  | rdreg (reg : Byte)
  deriving DecidableEq, Repr

/-- The defined opcodes, by mnemonic (R83). -/
inductive Opcode where
  | nop | init | clrerr
  | gfmul | gfinv | gflog | gfexp
  | synd | disc | bma | chien | recover
  | wrdata | rddata | setdlen | wrref | rdref | setrlen
  | rdsyn | rddisc | rdsig | rdosig | rdreg
  deriving DecidableEq, Repr

/-- The five formats (R81): which of the operand fields X and Y a command uses. -/
inductive Format where
  | n
  | y
  | xy8
  | xy
  | x
  deriving DecidableEq, Repr

/-- One source line of the assembler (R89, R90), its numbers not yet checked against their fields. -/
inductive AsmLine where
  /-- A line that holds only white space or a comment. -/
  | blank
  /-- A mnemonic and its operands, in the order R89 writes them. -/
  | command (op : Opcode) (operands : List Nat)
  /-- The directive `.word w`. -/
  | word (w : Nat)
  /-- `LDBUF addr, v0, …, vk`. -/
  | ldbuf (addr : Nat) (values : List Nat)
  /-- `LDREF idx, v0, …, vk`. -/
  | ldref (idx : Nat) (values : List Nat)
  /-- `SETBUF v0, …, vk`. -/
  | setbuf (values : List Nat)
  deriving DecidableEq, Repr

end Sys2Proof
end

