-- ==== Sys2Proof/WellFormed.lean ====
section
/-! DEFINITION. The checks that stand before a word or a configuration exists. An `Instr` needs none: its operands
carry their encoded widths (30_encoding.md R82, "A field element operand takes every value"), so every `Instr` has
a word. What can be ill formed is a source line (R89, R90: "an assembler error: no word is produced") and a choice of
parameters (00_scope.md R9, R10). -/

namespace Sys2Proof

/-- The widths of a mnemonic's operands as R89 writes them: 16 bits for X, 8 bits for Y, 8 bits for GFMUL's a. -/
def Opcode.operandWidths : Opcode → List Nat
  | .nop => []
  | .init => [8]
  | .clrerr => []
  | .gfmul => [8, 8]
  | .gfinv => [8]
  | .gflog => [8]
  | .gfexp => [8]
  | .synd => []
  | .disc => []
  | .bma => []
  | .chien => []
  | .recover => []
  | .wrdata => [16, 8]
  | .rddata => [16]
  | .setdlen => [16]
  | .wrref => [16, 8]
  | .rdref => [16]
  | .setrlen => [16]
  | .rdsyn => [16]
  | .rddisc => [16]
  | .rdsig => [16]
  | .rdosig => [16]
  | .rdreg => [8]

/-- As many operands as fields, each fitting its field (R89). -/
def operandsFit : List Nat → List Nat → Bool
  | [], [] => true
  | v :: vs, w :: ws => decide (v < 2 ^ w) && operandsFit vs ws
  | _, _ => false

/-- The values of LDBUF, LDREF and SETBUF: at least v0, each an 8-bit operand of the command it expands to (R89, R90),
and the last index addr + k fits 16 bits. -/
def runFits (first : Nat) (values : List Nat) : Bool :=
  !values.isEmpty && values.all (fun v => decide (v < 2 ^ 8)) && decide (first + (values.length - 1) ≤ 0xFFFF)

/-- A source line the assembler accepts (R89, R90). -/
def AsmLine.wf : AsmLine → Bool
  | .blank => true
  | .command op operands => operandsFit operands op.operandWidths
  | .word w => decide (w < 2 ^ 32)
  | .ldbuf addr values => runFits addr values
  | .ldref idx values => runFits idx values
  | .setbuf values => runFits 0 values && decide (values.length ≤ 0xFFFF)

/-- The bounds of R9 and R10 on a choice of TMAX and DMAX. -/
def paramsOk (tmax dmax : Nat) : Bool :=
  decide (1 ≤ tmax ∧ tmax ≤ 127) && decide (1 ≤ dmax ∧ dmax ≤ 65535)

/-- The parameters made of a choice of TMAX, DMAX and CHIEN_EXP, where the choice is within bounds. -/
def Params.ofChoice (tmax dmax : Nat) (e : ChienExp) : Option Params :=
  if h : (1 ≤ tmax ∧ tmax ≤ 127) ∧ (1 ≤ dmax ∧ dmax ≤ 65535) then
    some { tmax := tmax, dmax := dmax, chienExp := e, tmax_bounds := h.1, dmax_bounds := h.2 }
  else none

end Sys2Proof
end

