-- ==== Sys2Proof/Decode.lean ====
section
/-! DEFINITION. Decoding and encoding of command words (30_encoding.md R80 to R88). The decoder is total on the 2^32
words: a word is a command or is rejected by name, and both names are the cause ILLEGAL (R84, R87). There is one length
and no byte order (R64, R88), so decoding takes the word whole. -/

namespace Sys2Proof

/-! ### Fields (R80, R82) -/

/-- OPC = W[31:26]. -/
def opcOf (w : Word) : BitVec 6 := w.extractLsb' 26 6

/-- RSV = W[25:24]. -/
def rsvOf (w : Word) : BitVec 2 := w.extractLsb' 24 2

/-- X = W[23:8]. -/
def xOf (w : Word) : Half := w.extractLsb' 8 16

/-- Y = W[7:0]. -/
def yOf (w : Word) : Byte := w.extractLsb' 0 8

/-- X[7:0] = W[15:8], the operand a of format XY8 (R82). -/
def xLow (x : Half) : Byte := x.extractLsb' 0 8

/-! ### The opcode map (R83) and the formats (R81) -/

/-- The defined OPC values; 0x03, 0x0D, 0x0E, 0x0F and 0x1B..0x3F are reserved (R84). -/
def Opcode.ofBits (b : BitVec 6) : Option Opcode :=
  match b.toNat with
  | 0x00 => some .nop
  | 0x01 => some .init
  | 0x02 => some .clrerr
  | 0x04 => some .gfmul
  | 0x05 => some .gfinv
  | 0x06 => some .gflog
  | 0x07 => some .gfexp
  | 0x08 => some .synd
  | 0x09 => some .disc
  | 0x0A => some .bma
  | 0x0B => some .chien
  | 0x0C => some .recover
  | 0x10 => some .wrdata
  | 0x11 => some .rddata
  | 0x12 => some .setdlen
  | 0x13 => some .wrref
  | 0x14 => some .rdref
  | 0x15 => some .setrlen
  | 0x16 => some .rdsyn
  | 0x17 => some .rddisc
  | 0x18 => some .rdsig
  | 0x19 => some .rdosig
  | 0x1A => some .rdreg
  | _ => none

/-- The OPC value of a mnemonic (R83). -/
def Opcode.bits : Opcode → BitVec 6
  | .nop => 0x00
  | .init => 0x01
  | .clrerr => 0x02
  | .gfmul => 0x04
  | .gfinv => 0x05
  | .gflog => 0x06
  | .gfexp => 0x07
  | .synd => 0x08
  | .disc => 0x09
  | .bma => 0x0A
  | .chien => 0x0B
  | .recover => 0x0C
  | .wrdata => 0x10
  | .rddata => 0x11
  | .setdlen => 0x12
  | .wrref => 0x13
  | .rdref => 0x14
  | .setrlen => 0x15
  | .rdsyn => 0x16
  | .rddisc => 0x17
  | .rdsig => 0x18
  | .rdosig => 0x19
  | .rdreg => 0x1A

/-- Each opcode has one format (R83). -/
def Opcode.format : Opcode → Format
  | .nop => .n
  | .init => .y
  | .clrerr => .n
  | .gfmul => .xy8
  | .gfinv => .y
  | .gflog => .y
  | .gfexp => .y
  | .synd => .n
  | .disc => .n
  | .bma => .n
  | .chien => .n
  | .recover => .n
  | .wrdata => .xy
  | .rddata => .x
  | .setdlen => .x
  | .wrref => .xy
  | .rdref => .x
  | .setrlen => .x
  | .rdsyn => .x
  | .rddisc => .x
  | .rdsig => .x
  | .rdosig => .x
  | .rdreg => .y

/-- The mask of the fixed bits of a format (R81). -/
def Format.mask : Format → Word
  | .n => 0xFFFFFFFF
  | .y => 0xFFFFFF00
  | .xy8 => 0xFFFF0000
  | .xy => 0xFF000000
  | .x => 0xFF0000FF

/-! ### Decoding (R87) -/

/-- Why a word is no command; both are the cause ILLEGAL (R84). -/
inductive DecodeError where
  /-- Step 2 of R87: OPC is reserved. -/
  | reservedOpcode
  /-- Step 3 of R87: a bit that R81 requires to be 0 is 1. -/
  | nonzeroFixedBits
  deriving DecidableEq, Repr

/-- The command of an opcode with the operand fields of the word (R82, R83). -/
def Opcode.withOperands (op : Opcode) (x : Half) (y : Byte) : Instr :=
  match op with
  | .nop => .nop
  | .init => .init y
  | .clrerr => .clrerr
  | .gfmul => .gfmul (xLow x) y
  | .gfinv => .gfinv y
  | .gflog => .gflog y
  | .gfexp => .gfexp y
  | .synd => .synd
  | .disc => .disc
  | .bma => .bma
  | .chien => .chien
  | .recover => .recover
  | .wrdata => .wrdata x y
  | .rddata => .rddata x
  | .setdlen => .setdlen x
  | .wrref => .wrref x y
  | .rdref => .rdref x
  | .setrlen => .setrlen x
  | .rdsyn => .rdsyn x
  | .rddisc => .rddisc x
  | .rdsig => .rdsig x
  | .rdosig => .rdosig x
  | .rdreg => .rdreg y

/-- `OPC << 26`, the bits a well-formed word has under its format's mask (R81). -/
def Opcode.match32 (op : Opcode) : Word := (op.bits.setWidth 32) <<< 26

/-- The decoder (R87). -/
def decode (w : Word) : Except DecodeError Instr :=
  match Opcode.ofBits (opcOf w) with
  | none => .error .reservedOpcode
  | some op =>
    if w &&& op.format.mask = op.match32 then .ok (op.withOperands (xOf w) (yOf w))
    else .error .nonzeroFixedBits

/-! ### Encoding (R80 to R83) -/

/-- The opcode of a command. -/
def Instr.opcode : Instr → Opcode
  | .nop => .nop
  | .init _ => .init
  | .clrerr => .clrerr
  | .gfmul _ _ => .gfmul
  | .gfinv _ => .gfinv
  | .gflog _ => .gflog
  | .gfexp _ => .gfexp
  | .synd => .synd
  | .disc => .disc
  | .bma => .bma
  | .chien => .chien
  | .recover => .recover
  | .wrdata _ _ => .wrdata
  | .rddata _ => .rddata
  | .setdlen _ => .setdlen
  | .wrref _ _ => .wrref
  | .rdref _ => .rdref
  | .setrlen _ => .setrlen
  | .rdsyn _ => .rdsyn
  | .rddisc _ => .rddisc
  | .rdsig _ => .rdsig
  | .rdosig _ => .rdosig
  | .rdreg _ => .rdreg

/-- The word of an OPC and the operand fields, RSV = 0: OPC at bit 26, X at bit 8, Y at bit 0 (R80). -/
def fieldsWord (opc : BitVec 6) (x : Half) (y : Byte) : Word :=
  opc.setWidth 32 <<< 26 ||| x.setWidth 32 <<< 8 ||| y.setWidth 32

/-- The operand fields of a command: a field the format does not use is 0 (R81), and GFMUL's a is X[7:0] (R82). -/
def Instr.fields : Instr → Half × Byte
  | .nop => (0, 0)
  | .init t => (0, t)
  | .clrerr => (0, 0)
  | .gfmul a b => (a.setWidth 16, b)
  | .gfinv a => (0, a)
  | .gflog a => (0, a)
  | .gfexp i => (0, i)
  | .synd => (0, 0)
  | .disc => (0, 0)
  | .bma => (0, 0)
  | .chien => (0, 0)
  | .recover => (0, 0)
  | .wrdata addr byte => (addr, byte)
  | .rddata addr => (addr, 0)
  | .setdlen len => (len, 0)
  | .wrref idx elem => (idx, elem)
  | .rdref idx => (idx, 0)
  | .setrlen len => (len, 0)
  | .rdsyn idx => (idx, 0)
  | .rddisc idx => (idx, 0)
  | .rdsig idx => (idx, 0)
  | .rdosig idx => (idx, 0)
  | .rdreg reg => (0, reg)

/-- The word of a command (R80 to R83). -/
def encode (i : Instr) : Word := fieldsWord i.opcode.bits i.fields.1 i.fields.2

/-- The instruction the decoder reads from a word numbered as spec/opcode_table.json numbers it; every bit at or above
`nbits` is 0. Every row has 32 bits, and the ports carry words whole (R64, R80). -/
def decodeTableWord (nbits w : Nat) : Option Instr :=
  match decode (BitVec.ofNat 32 (w % 2 ^ nbits)) with
  | .ok i => some i
  | .error _ => none

end Sys2Proof
end

