-- ==== Sys2Proof/Machine/State.lean ====
section
/-! DEFINITION. The state of the block (10_state.md R20), its port at transaction level (70_reset_and_hazards.md R232,
R233, R242), and the state after reset (R47, R230). -/

namespace Sys2Proof.Machine

/-- The bytes of a host-writable memory that were written since reset: addresses strictly rising (log 4). What an
element outside the list reads as is the free draw of its address (I1). -/
abbrev Memory := List Host.Cell

/-- The log/antilog tables (10_state.md R21, R22): 256 entries each. -/
structure Tables where
  /-- ALPHA_TO[0..255] -/
  alphaTo : List Byte
  /-- INDEX_OF[0..255], the code 0xFF standing for −1 -/
  indexOf : List Byte
  deriving DecidableEq, Repr

/-- The cause codes of a rejection (60_exceptions.md R201). -/
inductive Cause where
  | illegal
  | notInit
  | range
  | badCfg
  deriving DecidableEq, Repr

/-- What the host does at the port (R233). -/
inductive HostAction where
  /-- It gives one command word. -/
  | command (w : Word)
  /-- It takes the waiting response. -/
  | takeResponse
  /-- It asserts `rst` between two commands (R230). -/
  | reset
  /-- It gives a command word, and `rst` arrives while the command executes (R209, I16). -/
  | resetDuring (w : Word)
  deriving DecidableEq, Repr

/-- The machine. The fields from `tables` to `ecode` are the elements of R20. -/
structure State where
  /-- TMAX, DMAX and CHIEN_EXP (R9 to R11): the arguments of the step relation, not state (R48); no step writes them
  (log 1). -/
  par : Params
  /-- ALPHA_TO and INDEX_OF (R21, R22). -/
  tables : Tables
  /-- TV: the tables are valid (R23). -/
  tv : Bool
  /-- T: the error-correction capacity (R27). -/
  t : BitVec 8
  /-- DBUF, indices 0..DMAX−1 (R25). -/
  dbuf : Memory
  /-- DLEN, in bytes (R26). -/
  dlen : BitVec 16
  /-- REF, indices 0..2·TMAX (R28). -/
  ref : Memory
  /-- RLEN, in elements (R29). -/
  rlen : BitVec 16
  /-- SYN, indices 0..2·TMAX (R30). -/
  syn : List Byte
  /-- DISC, indices 0..2·TMAX (R31). -/
  disc : List Byte
  /-- SIGMA, indices 0..TMAX (R32). -/
  sigma : List Byte
  /-- OSIG, indices 0..TMAX (R33). -/
  osig : List Byte
  /-- L (R34). -/
  l : BitVec 8
  /-- MVAL (R35). -/
  mval : BitVec 8
  /-- B (R36). -/
  b : BitVec 8
  /-- FLIPCNT (R37). -/
  flipcnt : BitVec 8
  /-- NODISC (R38). -/
  nodisc : Bool
  /-- ERR (R39). -/
  err : Bool
  /-- ECODE (R40). -/
  ecode : BitVec 4
  /-- The host's actions still to come, the next one first (R233, log 5). -/
  inputs : List HostAction
  /-- The response word waiting on the response port (R232). -/
  rsp : Option Word
  /-- The responses the host has taken, in command order (R242). -/
  taken : List Word
  /-- How many resets have happened: the argument of the free draws, the model's own (log 3). -/
  resets : Nat
  deriving DecidableEq, Repr

/-- Why the machine stops. -/
inductive Fault where
  /-- The step, when the host's next action is a command while a response waits: "stuck: no step is enabled" (I15,
  R233). Safe: the hardware accepts nothing further there (log 6). -/
  | portStalled
  deriving DecidableEq, Repr

/-- Why an instruction has no meaning. -/
inductive Refusal where
  /-- Raised by an arm of `exec` whose instruction has no meaning yet; safe. No arm is left so. -/
  | notModelled (mnemonic : String)
  deriving DecidableEq, Repr

/-- e0 in a memory of `len` entries: entry 0 is 1 and the others 0 (00_scope.md R17). -/
def unitVector (len : Nat) : List Byte := (List.replicate len 0).set 0 1

/-- The unspecified contents of a memory of `len` entries after reset number `k` (I2). -/
def drawnVector (d : Config.Drawn) (k len : Nat) : List Byte := (List.range len).map (Config.draw d k)

/-- The state after reset number `k` of a block with parameters `p` (R47, R230), nothing at the port. -/
def State.afterReset (p : Params) (k : Nat) : State where
  par := p
  tables := { alphaTo := drawnVector .alphaTo k 256, indexOf := drawnVector .indexOf k 256 }
  tv := false
  t := 0
  dbuf := []
  dlen := 0
  ref := []
  rlen := 0
  syn := List.replicate (2 * p.tmax + 1) 0
  disc := List.replicate (2 * p.tmax + 1) 0
  sigma := unitVector (p.tmax + 1)
  osig := unitVector (p.tmax + 1)
  l := 0
  mval := 1
  b := 1
  flipcnt := 0
  nodisc := false
  err := false
  ecode := 0
  inputs := []
  rsp := none
  taken := []
  resets := k

/-- The machine right after reset, at the parameter values of log 2. -/
def State.reset : State := State.afterReset Config.params 0

end Sys2Proof.Machine
end

