-- ==== Sys2Proof/Machine/Flags.lean ====
section
/-! DEFINITION. The status flags: the cause codes (60_exceptions.md R201), the recording of a rejection in ERR and
ECODE (R200), NODISC (42_syndrome.md R133), and the STATUS view (10_state.md R41). -/

namespace Sys2Proof.Machine

/-- The values of the response CAUSE field and of ECODE (R201); 0 is NONE. -/
def Cause.code : Cause → BitVec 4
  | .illegal => 1
  | .notInit => 2
  | .range => 3
  | .badCfg => 4

/-- "the first cause since the last CLRERR or reset is kept" (R200, R40). -/
def firstCause (ecode : BitVec 4) (c : Cause) : BitVec 4 := if ecode = 0 then c.code else ecode

/-- NODISC after a discrepancy computation: every DISC[i], i in 1..2·T, is 0 (R133). -/
def zeroDiscrepancy (t : Nat) (disc : List Byte) : Bool :=
  (List.range (2 * t)).all fun k => disc.getD (k + 1) 0 == 0

/-- STATUS: bit 0 = TV, bit 1 = NODISC, bit 2 = ERR, bits 7:4 = ECODE, bits 3 and 15:8 = 0 (R41). -/
def statusView (s : State) : Half :=
  s.ecode.setWidth 16 <<< 4 ||| (BitVec.ofBool s.err).setWidth 16 <<< 2 |||
    (BitVec.ofBool s.nodisc).setWidth 16 <<< 1 ||| (BitVec.ofBool s.tv).setWidth 16

end Sys2Proof.Machine
end

