-- ==== Sys2Proof/Machine/Ops.lean ====
section
/-! DEFINITION. The named operations over the memories, the registers and the port: one element of an index space
(20_memory.md R60), the response word (30_encoding.md R85), rejection as ONE operation (60_exceptions.md R200) with the
clearing of its record beside it (R171), and what the host does at the port (70_reset_and_hazards.md R230 to R233). -/

namespace Sys2Proof.Machine

/-! ### The host-writable memories -/

/-- The canonical form of a memory: its addresses rise strictly (log 4). -/
abbrev Memory.wf (m : Memory) : Prop := (m.map Prod.fst).Pairwise (· < ·)

/-- The byte written at an address since reset, if any. -/
def Memory.read? : Memory → Nat → Option Byte
  | [], _ => none
  | (b, v) :: rest, a => if b = a then some v else Memory.read? rest a

/-- Writing one byte at an address, in canonical form. -/
def Memory.write : Memory → Nat → Byte → Memory
  | [], a, v => [(a, v)]
  | (b, w) :: rest, a, v =>
    if a < b then (a, v) :: (b, w) :: rest
    else if a = b then (a, v) :: rest
    else (b, w) :: Memory.write rest a v

/-- DBUF[k]: the byte last written, or the draw of reset while there was none (R71, I1). -/
def readDbuf (s : State) (k : Nat) : Byte := (s.dbuf.read? k).getD (Config.draw .dbuf s.resets k)

/-- REF[i]: the element last written, or the draw of reset while there was none (R71, I1). -/
def readRef (s : State) (i : Nat) : Byte := (s.ref.read? i).getD (Config.draw .ref s.resets i)

/-- DBUF[k] <- v. -/
def writeDbuf (k : Nat) (v : Byte) (s : State) : State := { s with dbuf := s.dbuf.write k v }

/-- REF[i] <- v. -/
def writeRef (i : Nat) (v : Byte) (s : State) : State := { s with ref := s.ref.write i v }

/-- bitAt(p) = DBUF[p / 8][7 − (p mod 8)], most significant bit first (20_memory.md R62). -/
def bitAt (s : State) (p : Nat) : Bool := (readDbuf s (p / 8)).getLsbD (7 - p % 8)

/-- Flip bit position i: byte i / 8, bit 7 − (i mod 8) (20_memory.md R63, 44_chien_corrector.md R151). -/
def flipBit (s : State) (i : Nat) : State :=
  writeDbuf (i / 8) (readDbuf s (i / 8) ^^^ ((0x80 : Byte) >>> (i % 8))) s

/-! ### The engines' vectors -/

/-- Element i of SYN, DISC, SIGMA, OSIG, ALPHA_TO or INDEX_OF. No rule forms an index outside its memory (R67); the
value there is 0 in states that no run reaches (log 11). -/
def elem (m : List Byte) (i : Nat) : Byte := m.getD i 0

/-- Element i of such a memory takes the value v. -/
def setElem (m : List Byte) (i : Nat) (v : Byte) : List Byte := m.set i v

/-- The xor of f i over i in 0..<n: the accumulating loops of R130, R140 and R151. -/
def xorSum (n : Nat) (f : Nat → Byte) : Byte := (List.range n).foldl (fun acc i => acc ^^^ f i) 0

/-! ### Responses (R85) and rejection (R200) -/

/-- zext_16 (00_scope.md R13). -/
def zext16 (v : Byte) : Half := v.setWidth 16

/-- The response word: REJ at bit 31, CAUSE at bits 27:24, VALUE at bits 15:0, every other bit 0 (R85). -/
def responseWord (rej : Bool) (cause : BitVec 4) (value : Half) : Word :=
  (BitVec.ofBool rej).setWidth 32 <<< 31 ||| cause.setWidth 32 <<< 24 ||| value.setWidth 32

/-- respond(v) (00_scope.md R16): the command has executed and its response waits at the port. -/
def respond (v : Half) (s : State) : State := { s with rsp := some (responseWord false 0 v) }

/-- raise Reject(cause) (R200): the block's only exception. ERR and ECODE record it, the response carries it, and no
other state changes. -/
def reject (c : Cause) (s : State) : State :=
  { s with err := true, ecode := firstCause s.ecode c, rsp := some (responseWord true c.code 0) }

/-- CLRERR's effect on the record of rejections (R171): what stands in place of a return (R207). -/
def clearRecord (s : State) : State := { s with err := false, ecode := 0 }

/-! ### The registers the host sets -/

/-- DLEN <- x (R174). -/
def setDlen (x : Half) (s : State) : State := { s with dlen := x }

/-- RLEN <- x (R177). -/
def setRlen (x : Half) (s : State) : State := { s with rlen := x }

/-! ### The port -/

/-- The host's next action is dealt with; `rest` are those after it. -/
def advanceTo (rest : List HostAction) (s : State) : State := { s with inputs := rest }

/-- The host takes the waiting response (R232, R233); where none waits, none is transferred (log 7). -/
def takeResponse (s : State) : State := { s with rsp := none, taken := s.taken ++ s.rsp.toList }

/-- The reset event (R230): every element of R20 takes its value of R47, no response is produced, and a response not yet
taken is not delivered (R209, log 9). The parameters stay, and so does what is not the block's: the host's further
actions and the responses it has taken. -/
def resetEvent (s : State) : State :=
  { State.afterReset s.par (s.resets + 1) with inputs := s.inputs, taken := s.taken }

end Sys2Proof.Machine
end

