-- ==== Sys2Proof/Machine/Operands.lean ====
section
/-! DEFINITION. The checks a command makes before it executes (60_exceptions.md R202, R203) and what its operands name:
an element of an index space (20_memory.md R60) or a register view (10_state.md R42). -/

namespace Sys2Proof.Machine

/-- The outcome type of the block. -/
abbrev Result := Host.Outcome State Fault Refusal

/-- The NOTINIT check (R202): a command that needs the tables or T is rejected while TV = 0. -/
def whenReady (s : State) (done : State) : Result :=
  if s.tv then .next done else .next (reject .notInit s)

/-- An operand check (R202): `ok` fails with its cause. -/
def whenOperand (ok : Bool) (c : Cause) (s : State) (done : State) : Result :=
  if ok then .next done else .next (reject c s)

/-- X is an index of DBUF: X < DMAX (R172, R173). -/
def inDbuf (s : State) (x : Half) : Bool := decide (x.toNat < s.par.dmax)

/-- X is a length of the byte sequence: X ≤ DMAX (R174). -/
def isDlen (s : State) (x : Half) : Bool := decide (x.toNat ≤ s.par.dmax)

/-- X is an index of REF, SYN or DISC: X ≤ 2·TMAX (R175, R176, R178, R179). -/
def inSyndromes (s : State) (x : Half) : Bool := decide (x.toNat ≤ 2 * s.par.tmax)

/-- X is a length of the reference sequence: X ≤ 2·TMAX + 1 (R177). -/
def isRlen (s : State) (x : Half) : Bool := decide (x.toNat ≤ 2 * s.par.tmax + 1)

/-- X is an index of SIGMA or OSIG: X ≤ TMAX (R180, R181). -/
def inLocator (s : State) (x : Half) : Bool := decide (x.toNat ≤ s.par.tmax)

/-- t is a capacity the block accepts: 1 ≤ t ≤ TMAX (R103). -/
def isCapacity (s : State) (t : Byte) : Bool := decide (t ≠ 0) && decide (t.toNat ≤ s.par.tmax)

/-- CHIENMODE: 0 for RECIPROCAL, 1 for LITERAL (R42). -/
def chienMode : ChienExp → Half
  | .reciprocal => 0
  | .literal => 1

/-- REGVIEW: the 16-bit view of a register number (R42); the numbers 11..255 are reserved. -/
def regView (s : State) (reg : Byte) : Option Half :=
  match reg.toNat with
  | 0 => some (statusView s)
  | 1 => some (zext16 s.t)
  | 2 => some s.dlen
  | 3 => some s.rlen
  | 4 => some (zext16 s.l)
  | 5 => some (zext16 s.mval)
  | 6 => some (zext16 s.b)
  | 7 => some (zext16 s.flipcnt)
  | 8 => some (BitVec.ofNat 16 s.par.tmax)
  | 9 => some (BitVec.ofNat 16 s.par.dmax)
  | 10 => some (chienMode s.par.chienExp)
  | _ => none

end Sys2Proof.Machine
end

