-- ==== Sys2Proof/Machine/Access.lean ====
section
/-! DEFINITION. The host access and housekeeping commands (45_access.md R170 to R182). None of them needs TV = 1. -/

namespace Sys2Proof.Machine

/-- R170. -/
def execNop (s : State) : Result := .next (respond 0 s)

/-- R171. -/
def execClrerr (s : State) : Result := .next (respond 0 (clearRecord s))

/-- R172. -/
def execWrdata (addr : Half) (byte : Byte) (s : State) : Result :=
  whenOperand (inDbuf s addr) .range s (respond 0 (writeDbuf addr.toNat byte s))

/-- R173. -/
def execRddata (addr : Half) (s : State) : Result :=
  whenOperand (inDbuf s addr) .range s (respond (zext16 (readDbuf s addr.toNat)) s)

/-- R174. -/
def execSetdlen (len : Half) (s : State) : Result :=
  whenOperand (isDlen s len) .range s (respond 0 (setDlen len s))

/-- R175. -/
def execWrref (idx : Half) (v : Byte) (s : State) : Result :=
  whenOperand (inSyndromes s idx) .range s (respond 0 (writeRef idx.toNat v s))

/-- R176. -/
def execRdref (idx : Half) (s : State) : Result :=
  whenOperand (inSyndromes s idx) .range s (respond (zext16 (readRef s idx.toNat)) s)

/-- R177. -/
def execSetrlen (len : Half) (s : State) : Result :=
  whenOperand (isRlen s len) .range s (respond 0 (setRlen len s))

/-- R178. -/
def execRdsyn (idx : Half) (s : State) : Result :=
  whenOperand (inSyndromes s idx) .range s (respond (zext16 (elem s.syn idx.toNat)) s)

/-- R179. -/
def execRddisc (idx : Half) (s : State) : Result :=
  whenOperand (inSyndromes s idx) .range s (respond (zext16 (elem s.disc idx.toNat)) s)

/-- R180. -/
def execRdsig (idx : Half) (s : State) : Result :=
  whenOperand (inLocator s idx) .range s (respond (zext16 (elem s.sigma idx.toNat)) s)

/-- R181. -/
def execRdosig (idx : Half) (s : State) : Result :=
  whenOperand (inLocator s idx) .range s (respond (zext16 (elem s.osig idx.toNat)) s)

/-- R182: register numbers above 10 are rejected with RANGE. -/
def execRdreg (reg : Byte) (s : State) : Result :=
  match regView s reg with
  | some v => .next (respond v s)
  | none => .next (reject .range s)

end Sys2Proof.Machine
end

