-- ==== Sys2Proof/Machine/Field.lean ====
section
/-! DEFINITION. The log/antilog tables and their construction (40_field_tables.md R100), the field operations built on
them (41_field_arith.md R110, R111), and the commands INIT (R103), GFMUL, GFINV, GFLOG and GFEXP (R112 to R115). -/

namespace Sys2Proof.Machine

/-! ### BuildTables (R100) -/

/-- ALPHA_TO[i] <- v; INDEX_OF[v] <- i. -/
def setPower (tb : Tables) (i : Nat) (v : Byte) : Tables :=
  { alphaTo := setElem tb.alphaTo i v, indexOf := setElem tb.indexOf v.toNat (BitVec.ofNat 8 i) }

/-- The first m powers: ALPHA_TO[i] = 1 << i for i in 0..7. -/
def buildLowPowers (tb : Tables) : Tables :=
  (List.range 8).foldl (fun tb i => setPower tb i ((1 : Byte) <<< i)) tb

/-- ALPHA_TO[m]: the xor of 1 << i over the bits i in 0..7 of PRIM, its non-leading terms. -/
def primResidue : Byte := xorSum 8 fun i => if Config.prim.getLsbD i then (1 : Byte) <<< i else 0

/-- The left shift with the reduction constant 0x11D where it overflows 8 bits. -/
def timesAlpha (prev : Byte) : Byte :=
  if prev.getLsbD 7 then prev <<< 1 ^^^ Config.prim.setWidth 8 else prev <<< 1

/-- The power i in 9..255; entry 255 does not overwrite INDEX_OF[1] (90_conflicts.md C3). -/
def buildPower (tb : Tables) (i : Nat) : Tables :=
  let v := timesAlpha (elem tb.alphaTo (i - 1))
  if i ≤ 254 then setPower tb i v else { tb with alphaTo := setElem tb.alphaTo i v }

/-- BuildTables (R100): it reads no state and no operand, and writes all 512 entries. -/
def buildTables (tb : Tables) : Tables :=
  let tb := setPower (buildLowPowers tb) 8 primResidue
  let tb := ((List.range 247).map (· + 9)).foldl buildPower tb
  { tb with indexOf := setElem tb.indexOf 0 0xFF }

/-! ### Field operations -/

/-- gfmul(a, b) (R110). -/
def gfmul (tb : Tables) (a b : Byte) : Byte :=
  if a = 0 ∨ b = 0 then 0
  else elem tb.alphaTo (((elem tb.indexOf a.toNat).toNat + (elem tb.indexOf b.toNat).toNat) % Config.n)

/-- gfinv(a), with gfinv(0) = 0 (R111, I3). -/
def gfinv (tb : Tables) (a : Byte) : Byte :=
  if a = 0 then 0 else elem tb.alphaTo (Config.n - (elem tb.indexOf a.toNat).toNat)

/-- The logarithm as GFLOG shows it: −1 in 16 bits for 0 (R114). -/
def gflog (tb : Tables) (a : Byte) : Half := if a = 0 then 0xFFFF else zext16 (elem tb.indexOf a.toNat)

/-! ### INIT (R103) -/

/-- A new instance with capacity t. DBUF, DLEN, REF, RLEN, ERR and ECODE stay. -/
def construct (t : Byte) (s : State) : State :=
  { s with
    t := t
    tables := buildTables s.tables
    tv := true
    syn := List.replicate (2 * s.par.tmax + 1) 0
    disc := List.replicate (2 * s.par.tmax + 1) 0
    sigma := unitVector (s.par.tmax + 1)
    osig := unitVector (s.par.tmax + 1)
    l := 0
    mval := 1
    b := 1
    flipcnt := 0
    nodisc := false }

/-- R103. -/
def execInit (t : Byte) (s : State) : Result :=
  whenOperand (isCapacity s t) .badCfg s (respond 0 (construct t s))

/-! ### The arithmetic commands -/

/-- R112. -/
def execGfmul (a b : Byte) (s : State) : Result := whenReady s (respond (zext16 (gfmul s.tables a b)) s)

/-- R113. -/
def execGfinv (a : Byte) (s : State) : Result := whenReady s (respond (zext16 (gfinv s.tables a)) s)

/-- R114. -/
def execGflog (a : Byte) (s : State) : Result := whenReady s (respond (gflog s.tables a) s)

/-- R115. -/
def execGfexp (i : Byte) (s : State) : Result := whenReady s (respond (zext16 (elem s.tables.alphaTo i.toNat)) s)

end Sys2Proof.Machine
end

