-- ==== Sys2Proof/Machine/Syndrome.lean ====
section
/-! DEFINITION. The syndrome evaluator and the discrepancy stage (42_syndrome.md R130, R133) and the commands SYND
(R131) and DISC (R134). -/

namespace Sys2Proof.Machine

/-- Syndrome j of DBUF[0..<DLEN]: the xor of ALPHA_TO[(j·p) mod 255] over the set bit positions p (R130). -/
def syndrome (s : State) (j : Nat) : Byte :=
  xorSum (8 * s.dlen.toNat) fun p => if bitAt s p then elem s.tables.alphaTo ((j * p) % Config.n) else 0

/-- ComputeSyndromes (R130): SYN[j] for j in 1..2·T, and 0 at index 0 and above 2·T. -/
def computeSyndromes (s : State) : State :=
  { s with
    syn := (List.range (2 * s.par.tmax + 1)).map fun j =>
      if 1 ≤ j ∧ j ≤ 2 * s.t.toNat then syndrome s j else 0 }

/-- K, the last index that both sequences hold (R133). -/
def lastCompared (s : State) : Nat :=
  if s.rlen = 0 then 0 else min (2 * s.t.toNat) (s.rlen.toNat - 1)

/-- The discrepancies: SYN[i] xor REF[i] for i in 1..K, and 0 elsewhere (R133). -/
def discrepancies (s : State) : List Byte :=
  (List.range (2 * s.par.tmax + 1)).map fun i =>
    if 1 ≤ i ∧ i ≤ lastCompared s then elem s.syn i ^^^ readRef s i else 0

/-- ComputeDiscrepancy (R133). -/
def computeDiscrepancy (s : State) : State :=
  { s with
    disc := discrepancies s
    nodisc := zeroDiscrepancy s.t.toNat (discrepancies s) }

/-- R131. -/
def execSynd (s : State) : Result := whenReady s (respond 0 (computeSyndromes s))

/-- zext_16 of a flag. -/
def flagValue (f : Bool) : Half := (BitVec.ofBool f).setWidth 16

/-- R134: the response is NODISC after the command. -/
def execDisc (s : State) : Result :=
  whenReady s (respond (flagValue (computeDiscrepancy s).nodisc) (computeDiscrepancy s))

end Sys2Proof.Machine
end

