-- ==== Sys2Proof/Machine/Locator.lean ====
section
/-! DEFINITION. The Berlekamp–Massey recurrence engine (43_locator.md R140) and the command BMA (R141). -/

namespace Sys2Proof.Machine

/-- The registers the recurrence works on. L and MVAL are naturals while it runs (00_scope.md R15); they fit their
8 bits (R34, R35; log 12). -/
structure Recurrence where
  sigma : List Byte
  osig : List Byte
  l : Nat
  mval : Nat
  b : Byte
  deriving DecidableEq, Repr

/-- The initial values (R140), in memories of `len` = TMAX + 1 entries. -/
def Recurrence.start (len : Nat) : Recurrence where
  sigma := unitVector len
  osig := unitVector len
  l := 0
  mval := 1
  b := 1

/-- The discrepancy d of step r: DISC[r] xor the sum of SIGMA[i]·DISC[r − i] over i in 1..min(L, T) (R140, C11). -/
def stepDiscrepancy (tb : Tables) (t : Nat) (disc : List Byte) (q : Recurrence) (r : Nat) : Byte :=
  elem disc r ^^^ xorSum (min q.l t) fun k => gfmul tb (elem q.sigma (k + 1)) (elem disc (r - (k + 1)))

/-- The update loop: SIGMA[i + MVAL] ^= scale·OSIG[i] for each i with i + MVAL ≤ T (R140). -/
def updateSigma (tb : Tables) (t : Nat) (scale : Byte) (q : Recurrence) : List Byte :=
  (List.range (t + 1 - q.mval)).foldl
    (fun sg i => setElem sg (i + q.mval) (elem sg (i + q.mval) ^^^ gfmul tb scale (elem q.osig i))) q.sigma

/-- OSIG[0..T] <- Tm, the snapshot of SIGMA[0..T]; the entries above T stay (R140). -/
def snapshotOver (t : Nat) (sigma osig : List Byte) : List Byte := sigma.take (t + 1) ++ osig.drop (t + 1)

/-- Step r of the recurrence (R140). -/
def recurrenceStep (tb : Tables) (t : Nat) (disc : List Byte) (q : Recurrence) (r : Nat) : Recurrence :=
  let d := stepDiscrepancy tb t disc q r
  if d = 0 then { q with mval := q.mval + 1 }
  else
    let sigma' := updateSigma tb t (gfmul tb d (gfinv tb q.b)) q
    if 2 * q.l ≤ r - 1 then
      { sigma := sigma', osig := snapshotOver t q.sigma q.osig, l := r - q.l, mval := 1, b := d }
    else { q with sigma := sigma', mval := q.mval + 1 }

/-- The recurrence after its first `steps` steps, r = 1..steps. -/
def recurrenceAfter (tb : Tables) (t : Nat) (disc : List Byte) (len steps : Nat) : Recurrence :=
  ((List.range steps).map (· + 1)).foldl (recurrenceStep tb t disc) (Recurrence.start len)

/-- The registers the recurrence leaves in the state. -/
def withRecurrence (q : Recurrence) (s : State) : State :=
  { s with
    sigma := q.sigma
    osig := q.osig
    l := BitVec.ofNat 8 q.l
    mval := BitVec.ofNat 8 q.mval
    b := q.b }

/-- RunBM (R140): the steps r = 1..2·T. -/
def runBm (s : State) : State :=
  withRecurrence (recurrenceAfter s.tables s.t.toNat s.disc (s.par.tmax + 1) (2 * s.t.toNat)) s

/-- R141: the response is L after the command. -/
def execBma (s : State) : Result := whenReady s (respond (zext16 (runBm s).l) (runBm s))

end Sys2Proof.Machine
end

