-- ==== Sys2Proof/Machine/Chien.lean ====
section
/-! DEFINITION. The Chien search with the bit-flip corrector (44_chien_corrector.md R150, R151) and the commands CHIEN
(R152) and RECOVER (R153). -/

namespace Sys2Proof.Machine

/-- chienExp(j, i) (R150). -/
def chienExponent (e : ChienExp) (j i : Nat) : Nat :=
  match e with
  | .reciprocal => (Config.n - (j * i) % Config.n) % Config.n
  | .literal => (j * i) % Config.n

/-- The evaluation e of the locator for position i, over j in 0..min(L, T) (R151). -/
def locatorAt (s : State) (i : Nat) : Byte :=
  xorSum (min s.l.toNat s.t.toNat + 1) fun j =>
    gfmul s.tables (elem s.sigma j) (elem s.tables.alphaTo (chienExponent s.par.chienExp j i))

/-- The positions the search marks, in order: i in 0..<min(255, 8·DLEN), guarded by i < 8·DLEN (R151). "The evaluation
of position i uses only SIGMA, never DBUF", so the marks are those before any flip (log 13). -/
def markedPositions (s : State) : List Nat :=
  (List.range (min Config.n (8 * s.dlen.toNat))).filter fun i =>
    decide (locatorAt s i = 0) && decide (i < 8 * s.dlen.toNat)

/-- RunChien (R151): the marked bits are flipped in place and counted in FLIPCNT. -/
def runChien (s : State) : State :=
  { (markedPositions s).foldl flipBit s with flipcnt := BitVec.ofNat 8 (markedPositions s).length }

/-- R152: the response is FLIPCNT after the command. -/
def execChien (s : State) : Result := whenReady s (respond (zext16 (runChien s).flipcnt) (runChien s))

/-- The short-circuit of RECOVER: "return the input unchanged" (R153, D16). -/
def nothingLocated (s : State) : State :=
  { withRecurrence (Recurrence.start (s.par.tmax + 1)) s with flipcnt := 0 }

/-- RECOVER's steps 1 to 4 (R153). -/
def runRecover (s : State) : State :=
  let s2 := computeDiscrepancy (computeSyndromes s)
  if s2.nodisc then nothingLocated s2 else runChien (runBm s2)

/-- VALUE of RECOVER: NODISC at bit 8, FLIPCNT at bits 7:0, the other bits 0 (R86, R153). -/
def recoverValue (s : State) : Half := (BitVec.ofBool s.nodisc).setWidth 16 <<< 8 ||| s.flipcnt.setWidth 16

/-- R153. -/
def execRecover (s : State) : Result := whenReady s (respond (recoverValue (runRecover s)) (runRecover s))

end Sys2Proof.Machine
end

