-- ==== Sys2Proof/Machine/Dispatch.lean ====
section
/-! DEFINITION. What each command does (00_scope.md R18): one arm per constructor of `Instr`. -/

namespace Sys2Proof.Machine

def exec (i : Instr) (s : State) : Host.Outcome State Fault Refusal :=
  match i with
  | .nop => Sys2Proof.Machine.execNop s
  | .init t => Sys2Proof.Machine.execInit t s
  | .clrerr => Sys2Proof.Machine.execClrerr s
  | .gfmul a b => Sys2Proof.Machine.execGfmul a b s
  | .gfinv a => Sys2Proof.Machine.execGfinv a s
  | .gflog a => Sys2Proof.Machine.execGflog a s
  | .gfexp k => Sys2Proof.Machine.execGfexp k s
  | .synd => Sys2Proof.Machine.execSynd s
  | .disc => Sys2Proof.Machine.execDisc s
  | .bma => Sys2Proof.Machine.execBma s
  | .chien => Sys2Proof.Machine.execChien s
  | .recover => Sys2Proof.Machine.execRecover s
  | .wrdata addr byte => Sys2Proof.Machine.execWrdata addr byte s
  | .rddata addr => Sys2Proof.Machine.execRddata addr s
  | .setdlen len => Sys2Proof.Machine.execSetdlen len s
  | .wrref idx v => Sys2Proof.Machine.execWrref idx v s
  | .rdref idx => Sys2Proof.Machine.execRdref idx s
  | .setrlen len => Sys2Proof.Machine.execSetrlen len s
  | .rdsyn idx => Sys2Proof.Machine.execRdsyn idx s
  | .rddisc idx => Sys2Proof.Machine.execRddisc idx s
  | .rdsig idx => Sys2Proof.Machine.execRdsig idx s
  | .rdosig idx => Sys2Proof.Machine.execRdosig idx s
  | .rdreg reg => Sys2Proof.Machine.execRdreg reg s

end Sys2Proof.Machine
end

