-- ==== Sys2Proof/Machine/Port.lean ====
section
/-! DEFINITION. The command port at transaction level (70_reset_and_hazards.md R232, R233): an accepted word is decoded
and executed, or rejected with ILLEGAL, in one indivisible step (00_scope.md R18, 30_encoding.md R87). -/

namespace Sys2Proof.Machine

/-- An accepted word: the decoded command, or the rejection of a word that is none (R84, R87, R203). -/
def acceptWord (w : Word) (s : State) : Result :=
  match decode w with
  | .ok i => exec i s
  | .error _ => .next (reject .illegal s)

/-- "The block accepts a command only when it has no response waiting to be taken" (R232); otherwise the port is stalled
(I15). -/
def offerWord (w : Word) (rest : List HostAction) (s : State) : Result :=
  match s.rsp with
  | none => acceptWord w (advanceTo rest s)
  | some _ => .fault .portStalled

/-- The host's next action (R233). With none, the block "is idle and keeps all state" (R216, log 8). -/
def portStep (s : State) : Result :=
  match s.inputs with
  | [] => .next s
  | .command w :: rest => offerWord w rest s
  | .takeResponse :: rest => .next (takeResponse (advanceTo rest s))
  | .reset :: rest => .next (resetEvent (advanceTo rest s))
  | .resetDuring _ :: rest => .next (resetEvent (advanceTo rest s))

/-- The host takes what response waits and then gives the word `w` (R233). -/
def giveWord (w : Word) (s : State) : State :=
  { takeResponse s with inputs := .command w :: s.inputs }

end Sys2Proof.Machine
end

