-- ==== Sys2Proof/Machine/Step.lean ====
section
/-! DEFINITION. One step of the machine: one action of the host at the port (00_scope.md R18, 70_reset_and_hazards.md
R232). -/

namespace Sys2Proof.Machine

/-- One step. -/
def step (s : State) : Host.Outcome State Fault Refusal := portStep s

/-- The state in which the next step takes the command word numbered as spec/opcode_table.json numbers it, with every
bit at or above `nbits` 0: the host gives that word next, having taken any response that waits (log 5). -/
def State.withFetchWord (s : State) (nbits w : Nat) : State := giveWord (BitVec.ofNat 32 (w % 2 ^ nbits)) s

end Sys2Proof.Machine
end

