-- ==== Sys2Proof/Machine/Assembler.lean ====
section
/-! DEFINITION. The assembler syntax and its pseudo-instructions (30_encoding.md R89, R90), as a total function from
source text to command words: "an assembler error: no word is produced" is `none`. Text is a list of characters. What
R89 leaves open of the spelling is in log 15. -/

namespace Sys2Proof.Machine

/-! ### Words of a parsed line -/

/-- The operand fields X and Y of a format from its operands in written order (R81, R82, R89). -/
def operandFields : Format → List Nat → Half × Byte
  | .n, _ => (0, 0)
  | .y, vs => (0, BitVec.ofNat 8 (vs.getD 0 0))
  | .xy8, vs => (BitVec.ofNat 16 (vs.getD 0 0), BitVec.ofNat 8 (vs.getD 1 0))
  | .xy, vs => (BitVec.ofNat 16 (vs.getD 0 0), BitVec.ofNat 8 (vs.getD 1 0))
  | .x, vs => (BitVec.ofNat 16 (vs.getD 0 0), 0)

/-- The instruction of a mnemonic and its operands. -/
def commandOf (op : Opcode) (operands : List Nat) : Instr :=
  op.withOperands (operandFields op.format operands).1 (operandFields op.format operands).2

/-- The stores of a run of values at rising indices (R90). -/
def storeRun (store : Half → Byte → Instr) (first : Nat) : List Nat → List Word
  | [] => []
  | v :: vs => encode (store (BitVec.ofNat 16 first) (BitVec.ofNat 8 v)) :: storeRun store (first + 1) vs

/-- The words of an accepted line: the expansions of R90, one word for a command, the word itself for `.word`. -/
def lineWords : AsmLine → List Word
  | .blank => []
  | .command op operands => [encode (commandOf op operands)]
  | .word w => [BitVec.ofNat 32 w]
  | .ldbuf addr values => storeRun .wrdata addr values
  | .ldref idx values => storeRun .wrref idx values
  | .setbuf values => storeRun .wrdata 0 values ++ [encode (.setdlen (BitVec.ofNat 16 values.length))]

/-- The words of a line, or an assembler error (R89, R90). -/
def assembleLine (a : AsmLine) : Option (List Word) := if a.wf then some (lineWords a) else none

/-! ### Text -/

/-- Space, tab and carriage return separate nothing but tokens. -/
def isBlankChar (c : Char) : Bool := c == ' ' || c == '\t' || c == '\r'

/-- The text without blanks at either end. -/
def trimText (cs : List Char) : List Char := ((cs.dropWhile isBlankChar).reverse.dropWhile isBlankChar).reverse

/-- Cut at every `sep`. -/
def cutAt (sep : Char) : List Char → List (List Char)
  | [] => [[]]
  | c :: cs =>
    if c = sep then [] :: cutAt sep cs
    else match cutAt sep cs with
      | [] => [[c]]
      | first :: others => (c :: first) :: others

/-- A comment runs from `;` to the end of the line (R89). -/
def stripComment (cs : List Char) : List Char := cs.takeWhile fun c => !(c == ';')

/-- The value of a digit below `base`. -/
def digitValue (base : Nat) (c : Char) : Option Nat :=
  let n := c.toNat
  let v :=
    if 48 ≤ n ∧ n ≤ 57 then n - 48
    else if 65 ≤ n ∧ n ≤ 70 then n - 55
    else if 97 ≤ n ∧ n ≤ 102 then n - 87
    else base
  if v < base then some v else none

/-- The digits after those read so far. -/
def digitsFrom (base acc : Nat) : List Char → Option Nat
  | [] => some acc
  | c :: cs =>
    match digitValue base c with
    | some d => digitsFrom base (acc * base + d) cs
    | none => none

/-- One digit or more. -/
def digits (base : Nat) : List Char → Option Nat
  | [] => none
  | c :: cs => digitsFrom base 0 (c :: cs)

/-- A number is decimal, `0x` hexadecimal or `0b` binary (R89). -/
def parseNumber : List Char → Option Nat
  | '0' :: 'x' :: rest => digits 16 rest
  | '0' :: 'b' :: rest => digits 2 rest
  | cs => digits 10 cs

/-- The register names RDREG also accepts, in the order of their numbers 0..10 (R42, R89). -/
def registerNames : List (List Char) :=
  [['S', 'T', 'A', 'T', 'U', 'S'], ['T'], ['D', 'L', 'E', 'N'], ['R', 'L', 'E', 'N'], ['L'],
    ['M', 'V', 'A', 'L'], ['B'], ['F', 'L', 'I', 'P', 'C', 'N', 'T'], ['T', 'M', 'A', 'X'],
    ['D', 'M', 'A', 'X'], ['C', 'H', 'I', 'E', 'N', 'M', 'O', 'D', 'E']]

/-- A register by name, else by number (R89). -/
def parseRegister (cs : List Char) : Option Nat :=
  if cs ∈ registerNames then some (registerNames.idxOf cs) else parseNumber cs

/-- The mnemonics (R83). -/
def mnemonics : List (List Char × Opcode) :=
  [(['N', 'O', 'P'], .nop), (['I', 'N', 'I', 'T'], .init), (['C', 'L', 'R', 'E', 'R', 'R'], .clrerr),
    (['G', 'F', 'M', 'U', 'L'], .gfmul), (['G', 'F', 'I', 'N', 'V'], .gfinv), (['G', 'F', 'L', 'O', 'G'], .gflog),
    (['G', 'F', 'E', 'X', 'P'], .gfexp), (['S', 'Y', 'N', 'D'], .synd), (['D', 'I', 'S', 'C'], .disc),
    (['B', 'M', 'A'], .bma), (['C', 'H', 'I', 'E', 'N'], .chien), (['R', 'E', 'C', 'O', 'V', 'E', 'R'], .recover)] ++
  [(['W', 'R', 'D', 'A', 'T', 'A'], .wrdata), (['R', 'D', 'D', 'A', 'T', 'A'], .rddata),
    (['S', 'E', 'T', 'D', 'L', 'E', 'N'], .setdlen), (['W', 'R', 'R', 'E', 'F'], .wrref),
    (['R', 'D', 'R', 'E', 'F'], .rdref), (['S', 'E', 'T', 'R', 'L', 'E', 'N'], .setrlen),
    (['R', 'D', 'S', 'Y', 'N'], .rdsyn), (['R', 'D', 'D', 'I', 'S', 'C'], .rddisc),
    (['R', 'D', 'S', 'I', 'G'], .rdsig), (['R', 'D', 'O', 'S', 'I', 'G'], .rdosig), (['R', 'D', 'R', 'E', 'G'], .rdreg)]

/-- All of them parsed, or none. -/
def parseAll (parse : List Char → Option Nat) : List (List Char) → Option (List Nat)
  | [] => some []
  | t :: ts =>
    match parse t, parseAll parse ts with
    | some v, some vs => some (v :: vs)
    | _, _ => none

/-- The operands of a line, separated by commas (R89). -/
def parseOperands (parse : List Char → Option Nat) (cs : List Char) : Option (List Nat) :=
  if cs = [] then some [] else parseAll parse ((cutAt ',' cs).map trimText)

/-- A line from its first word and its operands. -/
def lineOf (head : List Char) (rest : List Char) : Option AsmLine :=
  if head = ['.', 'w', 'o', 'r', 'd'] then
    match parseOperands parseNumber rest with
    | some [w] => some (.word w)
    | _ => none
  else if head = ['L', 'D', 'B', 'U', 'F'] then
    match parseOperands parseNumber rest with
    | some (addr :: values) => some (.ldbuf addr values)
    | _ => none
  else if head = ['L', 'D', 'R', 'E', 'F'] then
    match parseOperands parseNumber rest with
    | some (idx :: values) => some (.ldref idx values)
    | _ => none
  else if head = ['S', 'E', 'T', 'B', 'U', 'F'] then
    match parseOperands parseNumber rest with
    | some values => some (.setbuf values)
    | none => none
  else
    match mnemonics.lookup head with
    | some .rdreg => (parseOperands parseRegister rest).map (.command .rdreg)
    | some op => (parseOperands parseNumber rest).map (.command op)
    | none => none

/-- One source line (R89). -/
def parseLine (cs : List Char) : Option AsmLine :=
  let body := trimText (stripComment cs)
  if body = [] then some .blank
  else
    lineOf (body.takeWhile fun c => !isBlankChar c) (trimText (body.dropWhile fun c => !isBlankChar c))

/-- The words of one source line. -/
def assembleTextLine (cs : List Char) : Option (List Word) :=
  match parseLine cs with
  | some a => assembleLine a
  | none => none

/-- The words of some source lines, in order. -/
def assembleLines : List (List Char) → Option (List Word)
  | [] => some []
  | line :: lines =>
    match assembleTextLine line, assembleLines lines with
    | some ws, some more => some (ws ++ more)
    | _, _ => none

/-- The words of a source text, one command per line (R89). -/
def assemble (text : List Char) : Option (List Word) := assembleLines (cutAt '\n' text)

end Sys2Proof.Machine
end

