-- ==== Sys2Proof/Safety.lean ====
section
/-! DEFINITION. What claims are made of: the invariants that hold between any two commands (10_state.md R46, with the
lengths of R20 and the memory form of log 4), the field tables as R102 prints them, what a run is (R242), and when one is
free of rejections. -/

namespace Sys2Proof.Machine

/-- ALPHA_TO after INIT, transcribed row by row from 40_field_tables.md R102. -/
def powerTable : List Byte :=
  [0x01, 0x02, 0x04, 0x08, 0x10, 0x20, 0x40, 0x80, 0x1D, 0x3A, 0x74, 0xE8, 0xCD, 0x87, 0x13, 0x26] ++
    [0x4C, 0x98, 0x2D, 0x5A, 0xB4, 0x75, 0xEA, 0xC9, 0x8F, 0x03, 0x06, 0x0C, 0x18, 0x30, 0x60, 0xC0] ++
    [0x9D, 0x27, 0x4E, 0x9C, 0x25, 0x4A, 0x94, 0x35, 0x6A, 0xD4, 0xB5, 0x77, 0xEE, 0xC1, 0x9F, 0x23] ++
    [0x46, 0x8C, 0x05, 0x0A, 0x14, 0x28, 0x50, 0xA0, 0x5D, 0xBA, 0x69, 0xD2, 0xB9, 0x6F, 0xDE, 0xA1] ++
    [0x5F, 0xBE, 0x61, 0xC2, 0x99, 0x2F, 0x5E, 0xBC, 0x65, 0xCA, 0x89, 0x0F, 0x1E, 0x3C, 0x78, 0xF0] ++
    [0xFD, 0xE7, 0xD3, 0xBB, 0x6B, 0xD6, 0xB1, 0x7F, 0xFE, 0xE1, 0xDF, 0xA3, 0x5B, 0xB6, 0x71, 0xE2] ++
    [0xD9, 0xAF, 0x43, 0x86, 0x11, 0x22, 0x44, 0x88, 0x0D, 0x1A, 0x34, 0x68, 0xD0, 0xBD, 0x67, 0xCE] ++
    [0x81, 0x1F, 0x3E, 0x7C, 0xF8, 0xED, 0xC7, 0x93, 0x3B, 0x76, 0xEC, 0xC5, 0x97, 0x33, 0x66, 0xCC] ++
    [0x85, 0x17, 0x2E, 0x5C, 0xB8, 0x6D, 0xDA, 0xA9, 0x4F, 0x9E, 0x21, 0x42, 0x84, 0x15, 0x2A, 0x54] ++
    [0xA8, 0x4D, 0x9A, 0x29, 0x52, 0xA4, 0x55, 0xAA, 0x49, 0x92, 0x39, 0x72, 0xE4, 0xD5, 0xB7, 0x73] ++
    [0xE6, 0xD1, 0xBF, 0x63, 0xC6, 0x91, 0x3F, 0x7E, 0xFC, 0xE5, 0xD7, 0xB3, 0x7B, 0xF6, 0xF1, 0xFF] ++
    [0xE3, 0xDB, 0xAB, 0x4B, 0x96, 0x31, 0x62, 0xC4, 0x95, 0x37, 0x6E, 0xDC, 0xA5, 0x57, 0xAE, 0x41] ++
    [0x82, 0x19, 0x32, 0x64, 0xC8, 0x8D, 0x07, 0x0E, 0x1C, 0x38, 0x70, 0xE0, 0xDD, 0xA7, 0x53, 0xA6] ++
    [0x51, 0xA2, 0x59, 0xB2, 0x79, 0xF2, 0xF9, 0xEF, 0xC3, 0x9B, 0x2B, 0x56, 0xAC, 0x45, 0x8A, 0x09] ++
    [0x12, 0x24, 0x48, 0x90, 0x3D, 0x7A, 0xF4, 0xF5, 0xF7, 0xF3, 0xFB, 0xEB, 0xCB, 0x8B, 0x0B, 0x16] ++
    [0x2C, 0x58, 0xB0, 0x7D, 0xFA, 0xE9, 0xCF, 0x83, 0x1B, 0x36, 0x6C, 0xD8, 0xAD, 0x47, 0x8E, 0x01]

/-- INDEX_OF after INIT, transcribed row by row from 40_field_tables.md R102; 0xFF stands for −1. -/
def logTable : List Byte :=
  [0xFF, 0x00, 0x01, 0x19, 0x02, 0x32, 0x1A, 0xC6, 0x03, 0xDF, 0x33, 0xEE, 0x1B, 0x68, 0xC7, 0x4B] ++
    [0x04, 0x64, 0xE0, 0x0E, 0x34, 0x8D, 0xEF, 0x81, 0x1C, 0xC1, 0x69, 0xF8, 0xC8, 0x08, 0x4C, 0x71] ++
    [0x05, 0x8A, 0x65, 0x2F, 0xE1, 0x24, 0x0F, 0x21, 0x35, 0x93, 0x8E, 0xDA, 0xF0, 0x12, 0x82, 0x45] ++
    [0x1D, 0xB5, 0xC2, 0x7D, 0x6A, 0x27, 0xF9, 0xB9, 0xC9, 0x9A, 0x09, 0x78, 0x4D, 0xE4, 0x72, 0xA6] ++
    [0x06, 0xBF, 0x8B, 0x62, 0x66, 0xDD, 0x30, 0xFD, 0xE2, 0x98, 0x25, 0xB3, 0x10, 0x91, 0x22, 0x88] ++
    [0x36, 0xD0, 0x94, 0xCE, 0x8F, 0x96, 0xDB, 0xBD, 0xF1, 0xD2, 0x13, 0x5C, 0x83, 0x38, 0x46, 0x40] ++
    [0x1E, 0x42, 0xB6, 0xA3, 0xC3, 0x48, 0x7E, 0x6E, 0x6B, 0x3A, 0x28, 0x54, 0xFA, 0x85, 0xBA, 0x3D] ++
    [0xCA, 0x5E, 0x9B, 0x9F, 0x0A, 0x15, 0x79, 0x2B, 0x4E, 0xD4, 0xE5, 0xAC, 0x73, 0xF3, 0xA7, 0x57] ++
    [0x07, 0x70, 0xC0, 0xF7, 0x8C, 0x80, 0x63, 0x0D, 0x67, 0x4A, 0xDE, 0xED, 0x31, 0xC5, 0xFE, 0x18] ++
    [0xE3, 0xA5, 0x99, 0x77, 0x26, 0xB8, 0xB4, 0x7C, 0x11, 0x44, 0x92, 0xD9, 0x23, 0x20, 0x89, 0x2E] ++
    [0x37, 0x3F, 0xD1, 0x5B, 0x95, 0xBC, 0xCF, 0xCD, 0x90, 0x87, 0x97, 0xB2, 0xDC, 0xFC, 0xBE, 0x61] ++
    [0xF2, 0x56, 0xD3, 0xAB, 0x14, 0x2A, 0x5D, 0x9E, 0x84, 0x3C, 0x39, 0x53, 0x47, 0x6D, 0x41, 0xA2] ++
    [0x1F, 0x2D, 0x43, 0xD8, 0xB7, 0x7B, 0xA4, 0x76, 0xC4, 0x17, 0x49, 0xEC, 0x7F, 0x0C, 0x6F, 0xF6] ++
    [0x6C, 0xA1, 0x3B, 0x52, 0x29, 0x9D, 0x55, 0xAA, 0xFB, 0x60, 0x86, 0xB1, 0xBB, 0xCC, 0x3E, 0x5A] ++
    [0xCB, 0x59, 0x5F, 0xB0, 0x9C, 0xA9, 0xA0, 0x51, 0x0B, 0xF5, 0x16, 0xEB, 0x7A, 0x75, 0x2C, 0xD7] ++
    [0x4F, 0xAE, 0xD5, 0xE9, 0xE6, 0xE7, 0xAD, 0xE8, 0x74, 0xD6, 0xF4, 0xEA, 0xA8, 0x50, 0x58, 0xAF]

/-- The tables after INIT (R102). -/
def standardTables : Tables := { alphaTo := powerTable, indexOf := logTable }

/-- The invariants between any two commands (R46), with the sizes of R20 and the ranges of R30, R31 and R40. -/
structure State.Inv (s : State) : Prop where
  /-- R20: 256 entries. -/
  alphaTo_length : s.tables.alphaTo.length = 256
  indexOf_length : s.tables.indexOf.length = 256
  /-- R20: 2·TMAX + 1 entries. -/
  syn_length : s.syn.length = 2 * s.par.tmax + 1
  disc_length : s.disc.length = 2 * s.par.tmax + 1
  /-- R20: TMAX + 1 entries. -/
  sigma_length : s.sigma.length = s.par.tmax + 1
  osig_length : s.osig.length = s.par.tmax + 1
  /-- R46: SYN[0] = 0 and DISC[0] = 0. -/
  syn_zero : elem s.syn 0 = 0
  disc_zero : elem s.disc 0 = 0
  /-- R30, R31: the entries above 2·T are 0. -/
  syn_above : ∀ j ≤ 2 * s.par.tmax, 2 * s.t.toNat < j → elem s.syn j = 0
  disc_above : ∀ j ≤ 2 * s.par.tmax, 2 * s.t.toNat < j → elem s.disc j = 0
  /-- R46: SIGMA[0] = OSIG[0] = 1. -/
  sigma_zero : elem s.sigma 0 = 1
  osig_zero : elem s.osig 0 = 1
  /-- R46: SIGMA[k] = OSIG[k] = 0 for T < k ≤ TMAX. -/
  sigma_above : ∀ k ≤ s.par.tmax, s.t.toNat < k → elem s.sigma k = 0
  osig_above : ∀ k ≤ s.par.tmax, s.t.toNat < k → elem s.osig k = 0
  /-- R46: B ≠ 0. -/
  b_ne_zero : s.b ≠ 0
  /-- R46: 0 ≤ L ≤ 2·T, and 1 ≤ MVAL ≤ 2·T + 1. -/
  l_le : s.l.toNat ≤ 2 * s.t.toNat
  mval_pos : 1 ≤ s.mval.toNat
  mval_le : s.mval.toNat ≤ 2 * s.t.toNat + 1
  /-- R46: DLEN ≤ DMAX and RLEN ≤ 2·TMAX + 1. -/
  dlen_le : s.dlen.toNat ≤ s.par.dmax
  rlen_le : s.rlen.toNat ≤ 2 * s.par.tmax + 1
  /-- R46: TV = 1 exactly when 1 ≤ T ≤ TMAX. -/
  tv_iff : s.tv = true ↔ 1 ≤ s.t.toNat ∧ s.t.toNat ≤ s.par.tmax
  /-- R46: TV = 0 exactly when T = 0. -/
  not_tv_iff : s.tv = false ↔ s.t = 0
  /-- R46: if TV = 1, the tables are those of R102. -/
  tables_built : s.tv = true → s.tables = standardTables
  /-- R39, R40, R201: ECODE holds a defined cause exactly when ERR is set. -/
  err_iff : s.err = true ↔ s.ecode ≠ 0
  ecode_le : s.ecode.toNat ≤ 4
  /-- Log 4: the canonical form of the two host-writable memories, and no element beyond them (R60). -/
  dbuf_wf : s.dbuf.wf
  ref_wf : s.ref.wf
  dbuf_inside : ∀ c ∈ s.dbuf, c.1 < s.par.dmax
  ref_inside : ∀ c ∈ s.ref, c.1 ≤ 2 * s.par.tmax

/-- The block is constructed: its invariants hold and the last INIT was accepted (R23). -/
structure State.Ready (s : State) : Prop where
  inv : s.Inv
  tv : s.tv = true

/-- The step is not the stall of the port (R233, I15). -/
def State.NotStalled (s : State) : Prop := ∀ w rest, s.inputs = .command w :: rest → s.rsp = none

/-- The host is about to give these words, taking the response to each (R233, R242). -/
def State.withWords (s : State) (ws : List Word) : State :=
  { s with inputs := ws.flatMap fun w => [.command w, .takeResponse] }

/-- The end of a run (R242): all words given and all responses taken. -/
def endOfRun (s : State) (ws : List Word) : Result := Sys2Proof.core.run (2 * ws.length) (s.withWords ws)

/-- The premise of a claim that needs "no rejection" (R242): ERR = 0 at the end. -/
def State.NoRejection (s : State) : Prop := s.err = false

/-- The states that some actions of the host lead to from reset (R47, R233), for every choice of the parameters. -/
inductive Reachable : State → Prop where
  | start (p : Params) (k : Nat) (inputs : List HostAction) :
      Reachable { State.afterReset p k with inputs := inputs }
  | next (s s' : State) (h : Reachable s) (hs : step s = .next s') : Reachable s'

end Sys2Proof.Machine
end

