-- ==== Sys2Proof/Certificates/Slice0/Obligations.lean ====
section
/-! DEFINITION. The statements for the provers. The definitions under `Stated` write the spec's rules in their own terms
(field arithmetic on the word, the opcode table's rows, recursion over the loop count, pointwise relations), so that a
statement compares the model with the rule and not with itself. -/

namespace Sys2Proof.Stated

open Sys2Proof.Machine

/-! ### Words -/

/-- X = W[23:8] (R80). -/
def X (w : Word) : Half := BitVec.ofNat 16 (w.toNat / 2 ^ 8)

/-- X[7:0] = W[15:8] (R82). -/
def XLow (w : Word) : Byte := BitVec.ofNat 8 (w.toNat / 2 ^ 8)

/-- Y = W[7:0] (R80). -/
def Y (w : Word) : Byte := BitVec.ofNat 8 w.toNat

/-- The match and mask of every row of spec/opcode_table.json, in its order. -/
def tableRows : List (Word × Word) :=
  [(0x00000000, 0xFFFFFFFF), (0x04000000, 0xFFFFFF00), (0x08000000, 0xFFFFFFFF), (0x10000000, 0xFFFF0000),
    (0x14000000, 0xFFFFFF00), (0x18000000, 0xFFFFFF00), (0x1C000000, 0xFFFFFF00), (0x20000000, 0xFFFFFFFF),
    (0x24000000, 0xFFFFFFFF), (0x28000000, 0xFFFFFFFF), (0x2C000000, 0xFFFFFFFF), (0x30000000, 0xFFFFFFFF)] ++
  [(0x40000000, 0xFF000000), (0x44000000, 0xFF0000FF), (0x48000000, 0xFF0000FF), (0x4C000000, 0xFF000000),
    (0x50000000, 0xFF0000FF), (0x54000000, 0xFF0000FF), (0x58000000, 0xFF0000FF), (0x5C000000, 0xFF0000FF),
    (0x60000000, 0xFF0000FF), (0x64000000, 0xFF0000FF), (0x68000000, 0xFFFFFF00)]

/-- The word is a row's: `(W & mask) == match` (R81). -/
def inTable (w : Word) : Bool := tableRows.any fun r => w &&& r.2 == r.1

/-! ### The port and the responses -/

/-- The host offers `w`, the block may accept it, and `rest` follows (R232). -/
def Offers (s : State) (w : Word) (rest : List HostAction) : Prop :=
  s.inputs = .command w :: rest ∧ s.rsp = none

/-- The response of an executed command: REJ = 0, CAUSE = 0, VALUE = v (R85). -/
def executed (v : Half) : Word := v.setWidth 32

/-- REJ = Rw[31] (R85). -/
def rejBit (r : Word) : Bool := decide (2 ^ 31 ≤ r.toNat)

/-- The state after a rejection with this cause code: the three assignments of R200 and nothing else. -/
def rejected (code : BitVec 4) (s : State) : State :=
  { s with
    err := true
    ecode := if s.ecode = 0 then code else s.ecode
    rsp := some (0x80000000 ||| code.setWidth 32 <<< 24) }

/-- The encoding of one command as its rule gives it: an accepted word of this OPC runs as `mk w` when its must-be-zero
bits are 0, and is rejected with ILLEGAL when they are not (R81, R84, R202). -/
def Encoded (opc : Nat) (mustBeZero : Word) (mk : Word → Instr) : Prop :=
  ∀ (s : State) (w : Word) (rest : List HostAction), Offers s w rest → w.toNat / 2 ^ 26 = opc →
    (w &&& mustBeZero = 0 → step s = exec (mk w) { s with inputs := rest }) ∧
    (w &&& mustBeZero ≠ 0 → step s = .next (rejected 1 { s with inputs := rest }))

/-- The column entries of R202 for one word, with the priority of R203; 0 is NONE. -/
def causeOf (p : Params) (tv : Bool) (w : Word) : BitVec 4 :=
  let x := (X w).toNat
  let y := (Y w).toNat
  if !inTable w then 1
  else match w.toNat / 2 ^ 26 with
    | 0x01 => if y = 0 ∨ p.tmax < y then 4 else 0
    | 0x04 | 0x05 | 0x06 | 0x07 | 0x08 | 0x09 | 0x0A | 0x0B | 0x0C => if tv then 0 else 2
    | 0x10 | 0x11 => if p.dmax ≤ x then 3 else 0
    | 0x12 => if p.dmax < x then 3 else 0
    | 0x13 | 0x14 | 0x16 | 0x17 => if 2 * p.tmax < x then 3 else 0
    | 0x15 => if 2 * p.tmax + 1 < x then 3 else 0
    | 0x18 | 0x19 => if p.tmax < x then 3 else 0
    | 0x1A => if 10 < y then 3 else 0
    | _ => 0

/-! ### Values -/

/-- Element i of a vector. -/
def entry (m : List Byte) (i : Nat) : Byte := m.getD i 0

/-- The xor of f 0, …, f (n − 1). -/
def xorUpTo : Nat → (Nat → Byte) → Byte
  | 0, _ => 0
  | n + 1, f => xorUpTo n f ^^^ f n

/-- DBUF[p / 8][7 − (p mod 8)] (R62). -/
def bit (s : State) (p : Nat) : Bool := (readDbuf s (p / 8)).getLsbD (7 - p % 8)

/-- gfmul by the tables, as R110 writes it. -/
def mul (tb : Tables) (a b : Byte) : Byte :=
  if a = 0 ∨ b = 0 then 0
  else entry tb.alphaTo (((entry tb.indexOf a.toNat).toNat + (entry tb.indexOf b.toNat).toNat) % 255)

/-- gfinv by the tables, as R111 writes it. -/
def inv (tb : Tables) (a : Byte) : Byte :=
  if a = 0 then 0 else entry tb.alphaTo (255 - (entry tb.indexOf a.toNat).toNat)

/-- The carry-less product of two field elements (R117). -/
def carrylessProduct (a b : Byte) : BitVec 16 :=
  (List.range 8).foldl (fun acc k => if b.getLsbD k then acc ^^^ a.setWidth 16 <<< k else acc) 0

/-- Reduction modulo p(x) = 0x11D (R2, R117). -/
def reduced (v : BitVec 16) : Byte :=
  ((List.range 7).foldl (fun acc k => if acc.getLsbD (14 - k) then acc ^^^ (0x11D : BitVec 16) <<< (6 - k) else acc)
    v).setWidth 8

/-- Syndrome j of the data stream, as R130 writes its loop. -/
def syndromeOf (s : State) (j : Nat) : Byte :=
  xorUpTo (8 * s.dlen.toNat) fun p => if bit s p then entry s.tables.alphaTo ((j * p) % 255) else 0

/-- K of R133. -/
def comparedUpTo (s : State) : Nat := if s.rlen.toNat = 0 then 0 else min (2 * s.t.toNat) (s.rlen.toNat - 1)

/-- chienExp(j, i) of R150. -/
def chienExp (e : ChienExp) (j i : Nat) : Nat :=
  if e = .reciprocal then (255 - j * i % 255) % 255 else j * i % 255

/-- The locator's evaluation for position i, as R151 writes its loop. -/
def evaluation (s : State) (i : Nat) : Byte :=
  xorUpTo (min s.l.toNat s.t.toNat + 1) fun j =>
    mul s.tables (entry s.sigma j) (entry s.tables.alphaTo (chienExp s.par.chienExp j i))

/-- Position i is marked by the search (R151). -/
def marked (s : State) (i : Nat) : Bool :=
  decide (i < min 255 (8 * s.dlen.toNat)) && decide (evaluation s i = 0)

/-- The registers of the recurrence with its vectors as functions of the index (R140). -/
structure Bm where
  sigma : Nat → Byte
  osig : Nat → Byte
  l : Nat
  mval : Nat
  b : Byte

/-- e0 as a function of the index (R17). -/
def e0 (k : Nat) : Byte := if k = 0 then 1 else 0

/-- The registers before step 1 (R140). -/
def bmStart : Bm where
  sigma := e0
  osig := e0
  l := 0
  mval := 1
  b := 1

/-- d of step r (R140): DISC[r] xor the sum over i in 1..min(L, T). -/
def bmDiscrepancy (tb : Tables) (t : Nat) (disc : List Byte) (q : Bm) (r : Nat) : Byte :=
  entry disc r ^^^ xorUpTo (min q.l t) fun k => mul tb (q.sigma (k + 1)) (entry disc (r - (k + 1)))

/-- Step r of R140 as a relation between the registers before and after it. -/
def BmStep (tb : Tables) (t : Nat) (disc : List Byte) (r : Nat) (q q' : Bm) : Prop :=
  let d := bmDiscrepancy tb t disc q r
  (d = 0 → q'.sigma = q.sigma ∧ q'.osig = q.osig ∧ q'.l = q.l ∧ q'.mval = q.mval + 1 ∧ q'.b = q.b) ∧
  (d ≠ 0 →
    (∀ k, q'.sigma k =
      if q.mval ≤ k ∧ k ≤ t then q.sigma k ^^^ mul tb (mul tb d (inv tb q.b)) (q.osig (k - q.mval)) else q.sigma k) ∧
    (2 * q.l ≤ r - 1 →
      q'.l = r - q.l ∧ (∀ k, q'.osig k = if k ≤ t then q.sigma k else q.osig k) ∧ q'.b = d ∧ q'.mval = 1) ∧
    (¬ 2 * q.l ≤ r - 1 → q'.l = q.l ∧ q'.osig = q.osig ∧ q'.b = q.b ∧ q'.mval = q.mval + 1))

/-- The 16-bit views of R42 in the order of their register numbers, as numbers; STATUS by the bit places of R41. -/
def views (s : State) : List Nat :=
  [s.tv.toNat + 2 * s.nodisc.toNat + 4 * s.err.toNat + 16 * s.ecode.toNat, s.t.toNat, s.dlen.toNat, s.rlen.toNat,
    s.l.toNat, s.mval.toNat, s.b.toNat, s.flipcnt.toNat, s.par.tmax, s.par.dmax,
    if s.par.chienExp = .reciprocal then 0 else 1]

/-- The commands R68 names as reads. -/
def isRead : Instr → Bool
  | .rddata _ => true
  | .rdreg _ => true
  | .rdref _ => true
  | .rdsyn _ => true
  | .rddisc _ => true
  | .rdsig _ => true
  | .rdosig _ => true
  | .gfexp _ => true
  | .gflog _ => true
  | .nop => false
  | .init _ => false
  | .clrerr => false
  | .gfmul _ _ => false
  | .gfinv _ => false
  | .synd => false
  | .disc => false
  | .bma => false
  | .chien => false
  | .recover => false
  | .wrdata _ _ => false
  | .setdlen _ => false
  | .wrref _ _ => false
  | .setrlen _ => false

/-- The host's next action is a reset, between commands or during one (R230, R209). -/
def ResetNext (s : State) : Prop := ∃ rest, s.inputs = .reset :: rest ∨ ∃ w, s.inputs = .resetDuring w :: rest

end Sys2Proof.Stated

open Sys2Proof Sys2Proof.Machine Sys2Proof.Stated

/-! ### Encoding -/

/-- Decoding the word of a command gives it back, with every operand (R80 to R83, R87). -/
def Obligations.DecodeOfEncodeIsTheCommand : Prop := ∀ i : Instr, decode (encode i) = .ok i

/-- A word that decodes to a command is that command's only word (R81, R84). -/
def Obligations.EncodeOfDecodedIsTheWord : Prop := ∀ (w : Word) (i : Instr), decode w = .ok i → encode i = w

/-- The words that decode are those that meet the test of R81 with a row of the opcode table (R81, R83, R87). -/
def Obligations.DecodableWordsAreTheTableRows : Prop := ∀ w : Word, (∃ i, decode w = .ok i) ↔ inTable w = true

/-- Words of 30_encoding.md R91, one or more of every format, decode as R91 lists them. -/
def Obligations.SampleWordsDecode : Prop :=
  decode 0x00000000 = .ok .nop ∧ decode 0x04000002 = .ok (.init 2) ∧ decode 0x10000280 = .ok (.gfmul 0x02 0x80) ∧
  decode 0x20000000 = .ok .synd ∧ decode 0x400003A5 = .ok (.wrdata 3 0xA5) ∧ decode 0x54000500 = .ok (.setrlen 5) ∧
  decode 0x68000007 = .ok (.rdreg 7) ∧ decode 0x0C000000 = .error .reservedOpcode ∧
  decode 0x10010203 = .error .nonzeroFixedBits

/-- R84: a reserved OPC, and a defined OPC with a nonzero must-be-zero bit, are rejected with ILLEGAL and only the
recording of R200 happens; every other word is a defined command. -/
def Obligations.ReservedEncodingsAreIllegal : Prop :=
  (∀ (s : State) (w : Word) (rest : List HostAction), Offers s w rest →
    (w.toNat / 2 ^ 26 = 0x03 ∨ (0x0D ≤ w.toNat / 2 ^ 26 ∧ w.toNat / 2 ^ 26 ≤ 0x0F) ∨ 0x1B ≤ w.toNat / 2 ^ 26) →
      step s = .next (rejected 1 { s with inputs := rest })) ∧
  (∀ (s : State) (w : Word) (rest : List HostAction), Offers s w rest → inTable w = false →
      step s = .next (rejected 1 { s with inputs := rest })) ∧
  (∀ w : Word, inTable w = true → ∃ i, decode w = .ok i)

/-- A step runs the decoded command on the state in which the word is consumed (R18, R87, R232); nothing else is added
around it. -/
def Obligations.StepRunsTheDecodedCommand : Prop :=
  ∀ (s : State) (w : Word) (rest : List HostAction) (i : Instr), Offers s w rest → decode w = .ok i →
    step s = exec i { s with inputs := rest }

/-! ### Rejection -/

/-- R202 and R203, for every word and state: the cause is the table's, by the priority; with a cause the state is that of
R200, and with none the command executes with REJ = 0 and CAUSE = 0. -/
def Obligations.RejectionsAreThoseOfTheCauseTable : Prop :=
  ∀ (s : State) (w : Word) (rest : List HostAction), Offers s w rest →
    (causeOf s.par s.tv w ≠ 0 → step s = .next (rejected (causeOf s.par s.tv w) { s with inputs := rest })) ∧
    (causeOf s.par s.tv w = 0 → ∃ t v, step s = .next t ∧ t.rsp = some (executed v))

/-- R39 and R40: a rejection sets ERR, and ECODE when it is 0; only CLRERR and reset clear them, and nothing else writes
them. -/
def Obligations.ErrorRecordIsStickyUntilCleared : Prop :=
  ∀ s t : State, step s = .next t →
    (ResetNext s → t.err = false ∧ t.ecode = 0) ∧
    (∀ w rest, Offers s w rest →
      (w = 0x08000000 → t.err = false ∧ t.ecode = 0) ∧
      (w ≠ 0x08000000 → causeOf s.par s.tv w = 0 → t.err = s.err ∧ t.ecode = s.ecode) ∧
      (causeOf s.par s.tv w ≠ 0 →
        t.err = true ∧ t.ecode = if s.ecode = 0 then causeOf s.par s.tv w else s.ecode)) ∧
    (¬ ResetNext s → (∀ w rest, s.inputs ≠ .command w :: rest) → t.err = s.err ∧ t.ecode = s.ecode)

/-! ### The port and reset -/

/-- Every accepted word yields one response, which waits at the port; the host's record and the model's own fields stay
(R232). -/
def Obligations.AcceptedWordYieldsOneResponse : Prop :=
  ∀ (s : State) (w : Word) (rest : List HostAction), Offers s w rest →
    ∃ t r, step s = .next t ∧ t.rsp = some r ∧ t.taken = s.taken ∧ t.inputs = rest ∧ t.par = s.par ∧
      t.resets = s.resets

/-- The machine stops only where the port is stalled by an untaken response (R233, R204, R241), and refuses nothing. -/
def Obligations.OnlyAnUntakenResponseStopsTheStep : Prop :=
  ∀ s : State,
    ((∃ f, step s = .fault f) ↔ ∃ w rest r, s.inputs = .command w :: rest ∧ s.rsp = some r) ∧
    ∀ r, step s ≠ .refused r

/-- Taking the waiting response moves it to the host's record in command order and changes nothing else (R232, R233);
with no action of the host the block is idle (R216; the model's reading, log 8). -/
def Obligations.TakingAResponseTouchesThePortOnly : Prop :=
  (∀ (s : State) (rest : List HostAction) (r : Word), s.inputs = .takeResponse :: rest → s.rsp = some r →
    step s = .next { s with inputs := rest, rsp := none, taken := s.taken ++ [r] }) ∧
  (∀ s : State, s.inputs = [] → step s = .next s)

/-- R47 and R230: the values reset leaves, after a reset between commands and after one during a command, for every state
before it; the elements R47 leaves unspecified are not constrained. No response is produced. -/
def Obligations.ResetLeavesTheStatedValues : Prop :=
  ∀ (s : State) (rest : List HostAction), (s.inputs = .reset :: rest ∨ ∃ w, s.inputs = .resetDuring w :: rest) →
    ∃ t, step s = .next t ∧ t.tv = false ∧ t.t = 0 ∧ t.dlen = 0 ∧ t.rlen = 0 ∧
      t.syn.length = 2 * s.par.tmax + 1 ∧ (∀ j, entry t.syn j = 0) ∧
      t.disc.length = 2 * s.par.tmax + 1 ∧ (∀ j, entry t.disc j = 0) ∧
      t.sigma.length = s.par.tmax + 1 ∧ (∀ k, entry t.sigma k = e0 k) ∧
      t.osig.length = s.par.tmax + 1 ∧ (∀ k, entry t.osig k = e0 k) ∧
      t.l = 0 ∧ t.mval = 1 ∧ t.b = 1 ∧ t.flipcnt = 0 ∧ t.nodisc = false ∧ t.err = false ∧ t.ecode = 0 ∧
      (s.rsp = none → t.rsp = none)

/-- The model's own reading of a reset's other side: the host's further actions stay (log 5), the responses taken stay and
a waiting one is dropped (log 9), after a reset during a command too (log 10), and the parameters stay (log 1). -/
def Obligations.ResetKeepsTheHostsRecordAndTheParameters : Prop :=
  ∀ (s : State) (rest : List HostAction), (s.inputs = .reset :: rest ∨ ∃ w, s.inputs = .resetDuring w :: rest) →
    ∃ t, step s = .next t ∧ t.inputs = rest ∧ t.taken = s.taken ∧ t.rsp = none ∧ t.par = s.par

/-! ### Invariants -/

/-- Every step keeps the invariants of R46, from every state that meets them. -/
def Obligations.StepKeepsTheInvariants : Prop := ∀ s t : State, s.Inv → step s = .next t → t.Inv

/-- The invariants of R46 hold after reset, for every choice of the parameters and every number of the reset, and so in
`State.reset`. -/
def Obligations.ResetMeetsTheInvariants : Prop :=
  (∀ (p : Params) (k : Nat), (State.afterReset p k).Inv) ∧ State.reset.Inv

/-- No step writes the parameters (R48; log 1). -/
def Obligations.ParametersAreNeverWritten : Prop := ∀ s t : State, step s = .next t → t.par = s.par

/-! ### Who writes what -/

/-- R24: ALPHA_TO and INDEX_OF are written only by INIT. -/
def Obligations.TablesAreWrittenOnlyByInit : Prop :=
  ∀ (i : Instr) (s t : State), exec i s = .next t → t.tables ≠ s.tables → ∃ c, i = .init c

/-- R23: TV is 0 after reset, an accepted INIT sets it, nothing but reset clears it, and while it is 0 the commands that
need the tables or T are rejected with NOTINIT. -/
def Obligations.TablesValidIsSetByInitAndClearedByReset : Prop :=
  (∀ s t : State, step s = .next t → ResetNext s → t.tv = false) ∧
  (∀ (s t : State) (c : Byte), exec (.init c) s = .next t → 1 ≤ c.toNat → c.toNat ≤ s.par.tmax → t.tv = true) ∧
  (∀ s t : State, step s = .next t → s.tv = true → t.tv = false → ResetNext s) ∧
  (∀ (s t : State) (w : Word) (rest : List HostAction), Offers s w rest → step s = .next t → s.tv = false →
    t.tv = true → ∃ c : Byte, decode w = .ok (.init c) ∧ 1 ≤ c.toNat ∧ c.toNat ≤ s.par.tmax) ∧
  (∀ (s : State) (i : Instr), s.tv = false →
    (i ∈ [.synd, .disc, .bma, .chien, .recover] ∨ (∃ a b, i = .gfmul a b) ∨
      ∃ a, i = .gfinv a ∨ i = .gflog a ∨ i = .gfexp a) →
    exec i s = .next (rejected 2 s))

/-- The whole machine's frame: for each of the 19 elements of R20, the commands that may change it (R23 to R40, R42, R60);
derived state is not refreshed by any other (R235). For DBUF and REF, what changes is the reading of one of their entries;
ERR and ECODE change by CLRERR and by a rejection, whatever the command. -/
def Obligations.ElementsChangeOnlyByTheirWriters : Prop :=
  ∀ (i : Instr) (s t : State), exec i s = .next t →
    (t.tables.alphaTo ≠ s.tables.alphaTo ∨ t.tables.indexOf ≠ s.tables.indexOf ∨ t.tv ≠ s.tv ∨ t.t ≠ s.t →
      ∃ c, i = .init c) ∧
    (t.err ≠ s.err ∨ t.ecode ≠ s.ecode → i = .clrerr ∨ ∃ r, t.rsp = some r ∧ rejBit r = true) ∧
    (t.dlen ≠ s.dlen → ∃ x, i = .setdlen x) ∧
    (t.rlen ≠ s.rlen → ∃ x, i = .setrlen x) ∧
    (∀ k, readRef t k ≠ readRef s k → ∃ x v, i = .wrref x v ∧ x.toNat = k) ∧
    (∀ k, readDbuf t k ≠ readDbuf s k →
      (∃ x v, i = .wrdata x v ∧ x.toNat = k) ∨ ((i = .chien ∨ i = .recover) ∧ k < s.dlen.toNat)) ∧
    (t.syn ≠ s.syn → i = .synd ∨ i = .recover ∨ ∃ c, i = .init c) ∧
    (t.disc ≠ s.disc ∨ t.nodisc ≠ s.nodisc → i = .disc ∨ i = .recover ∨ ∃ c, i = .init c) ∧
    (t.sigma ≠ s.sigma ∨ t.osig ≠ s.osig ∨ t.l ≠ s.l ∨ t.mval ≠ s.mval ∨ t.b ≠ s.b →
      i = .bma ∨ i = .recover ∨ ∃ c, i = .init c) ∧
    (t.flipcnt ≠ s.flipcnt → i = .chien ∨ i = .recover ∨ ∃ c, i = .init c)

/-- R68: a read that executes changes the response only; one that is rejected changes ERR and ECODE besides. -/
def Obligations.ReadsHaveNoSideEffect : Prop :=
  ∀ (i : Instr) (s : State), isRead i = true →
    ∃ t r, exec i s = .next t ∧ t.rsp = some r ∧
      (rejBit r = false → t = { s with rsp := some r }) ∧
      (rejBit r = true → t = { s with rsp := some r, err := true, ecode := t.ecode })

/-! ### Housekeeping and INIT -/

/-- R170: NOP responds 0 and writes nothing. -/
def Obligations.NopRespondsZero : Prop :=
  (∀ s : State, exec .nop s = .next { s with rsp := some (executed 0) }) ∧ Encoded 0x00 0x03FFFFFF fun _ => .nop

/-- R171: CLRERR clears ERR and ECODE and responds 0. -/
def Obligations.ClrerrClearsTheErrorRecord : Prop :=
  (∀ s : State, exec .clrerr s = .next { s with err := false, ecode := 0, rsp := some (executed 0) }) ∧
  Encoded 0x02 0x03FFFFFF fun _ => .clrerr

/-- R103: INIT t with 1 ≤ t ≤ TMAX constructs an instance, its tables those BuildTables leaves in memories of 256 entries,
and leaves DBUF, DLEN, REF, RLEN, ERR and ECODE; any other t is rejected with BADCFG. -/
def Obligations.InitConstructsAnInstance : Prop :=
  (∀ (s : State) (c : Byte), 1 ≤ c.toNat → c.toNat ≤ s.par.tmax →
    ∃ t, exec (.init c) s = .next t ∧
      t = { s with
        t := c, tables := t.tables, tv := true,
        syn := List.replicate (2 * s.par.tmax + 1) 0, disc := List.replicate (2 * s.par.tmax + 1) 0,
        sigma := 1 :: List.replicate s.par.tmax 0, osig := 1 :: List.replicate s.par.tmax 0,
        l := 0, mval := 1, b := 1, flipcnt := 0, nodisc := false, rsp := some (executed 0) } ∧
      (s.tables.alphaTo.length = 256 → s.tables.indexOf.length = 256 → t.tables = standardTables)) ∧
  (∀ (s : State) (c : Byte), c.toNat = 0 ∨ s.par.tmax < c.toNat → exec (.init c) s = .next (rejected 4 s)) ∧
  Encoded 0x01 0x03FFFF00 fun w => .init (Y w)

/-- R102, R104: every accepted INIT writes the 512 values that R102 prints, whatever the tables held. -/
def Obligations.InitBuildsThePrintedTables : Prop :=
  ∀ (s : State) (c : Byte), s.tables.alphaTo.length = 256 → s.tables.indexOf.length = 256 →
    1 ≤ c.toNat → c.toNat ≤ s.par.tmax →
    ∃ t, exec (.init c) s = .next t ∧ t.tables.alphaTo = powerTable ∧ t.tables.indexOf = logTable

/-- R101: after an accepted INIT the tables are mutual inverses on the nonzero elements, ALPHA_TO[255] = 1,
ALPHA_TO[8] = 0x1D, and only INDEX_OF[0] holds the code of −1. -/
def Obligations.TablesAreMutualInverses : Prop :=
  ∀ (s : State) (c : Byte), s.tables.alphaTo.length = 256 → s.tables.indexOf.length = 256 →
    1 ≤ c.toNat → c.toNat ≤ s.par.tmax →
    ∃ t, exec (.init c) s = .next t ∧
      (∀ i ≤ 254, (entry t.tables.indexOf (entry t.tables.alphaTo i).toNat).toNat = i) ∧
      (∀ a : Byte, a ≠ 0 → entry t.tables.alphaTo (entry t.tables.indexOf a.toNat).toNat = a) ∧
      (∀ i ≤ 255, entry t.tables.alphaTo i ≠ 0) ∧
      entry t.tables.alphaTo 255 = 1 ∧ entry t.tables.alphaTo 8 = 0x1D ∧
      (∀ a : Byte, entry t.tables.indexOf a.toNat = 0xFF ↔ a = 0)

/-! ### Field arithmetic -/

/-- R110, R112: GFMUL responds with the product by the tables and writes nothing; NOTINIT while TV = 0. On a constructed
block a product with 0 is 0, a product with 1 is the other operand, and the order of the operands does not matter. -/
def Obligations.GfmulRespondsWithTheProduct : Prop :=
  (∀ (s : State) (a b : Byte), s.tv = true →
    exec (.gfmul a b) s = .next { s with rsp := some (executed ((mul s.tables a b).setWidth 16)) }) ∧
  (∀ (s : State) (a b : Byte), s.tv = false → exec (.gfmul a b) s = .next (rejected 2 s)) ∧
  (∀ (s : State) (a b : Byte), s.Ready →
    exec (.gfmul a 0) s = .next { s with rsp := some 0 } ∧ exec (.gfmul 0 b) s = .next { s with rsp := some 0 } ∧
    exec (.gfmul 1 b) s = .next { s with rsp := some (executed (b.setWidth 16)) } ∧
    exec (.gfmul a b) s = exec (.gfmul b a) s) ∧
  Encoded 0x04 0x03FF0000 fun w => .gfmul (XLow w) (Y w)

/-- R111, R113: GFINV responds with the inverse by the tables, 0 for 0, and writes nothing; NOTINIT while TV = 0. On a
constructed block GFINV 1 is 1, and the inverse of the inverse is the operand. -/
def Obligations.GfinvRespondsWithTheInverse : Prop :=
  (∀ (s : State) (a : Byte), s.tv = true →
    exec (.gfinv a) s = .next { s with rsp := some (executed ((inv s.tables a).setWidth 16)) }) ∧
  (∀ (s : State) (a : Byte), s.tv = false → exec (.gfinv a) s = .next (rejected 2 s)) ∧
  (∀ (s : State) (a : Byte), s.Ready →
    exec (.gfinv 0) s = .next { s with rsp := some 0 } ∧ exec (.gfinv 1) s = .next { s with rsp := some 1 } ∧
    exec (.gfinv (inv s.tables a)) s = .next { s with rsp := some (executed (a.setWidth 16)) }) ∧
  Encoded 0x05 0x03FFFF00 fun w => .gfinv (Y w)

/-- R114: GFLOG responds with INDEX_OF[a], 0xFFFF for a = 0, and writes nothing; NOTINIT while TV = 0. On a
constructed block the logarithm of a nonzero operand is at most 254. -/
def Obligations.GflogRespondsWithTheLogarithm : Prop :=
  (∀ s : State, s.tv = true → exec (.gflog 0) s = .next { s with rsp := some 0x0000FFFF }) ∧
  (∀ (s : State) (a : Byte), s.tv = true → a ≠ 0 →
    exec (.gflog a) s = .next { s with rsp := some (executed ((entry s.tables.indexOf a.toNat).setWidth 16)) }) ∧
  (∀ (s : State) (a : Byte), s.tv = false → exec (.gflog a) s = .next (rejected 2 s)) ∧
  (∀ (s : State) (a : Byte), s.Ready → a ≠ 0 → (entry s.tables.indexOf a.toNat).toNat ≤ 254) ∧
  Encoded 0x06 0x03FFFF00 fun w => .gflog (Y w)

/-- R115: GFEXP responds with ALPHA_TO[i] and writes nothing; NOTINIT while TV = 0. On a constructed block i = 255 gives
1, as i = 0 does, and no power is 0. -/
def Obligations.GfexpRespondsWithThePower : Prop :=
  (∀ (s : State) (k : Byte), s.tv = true →
    exec (.gfexp k) s = .next { s with rsp := some (executed ((entry s.tables.alphaTo k.toNat).setWidth 16)) }) ∧
  (∀ (s : State) (k : Byte), s.tv = false → exec (.gfexp k) s = .next (rejected 2 s)) ∧
  (∀ (s : State) (k : Byte), s.Ready →
    exec (.gfexp 255) s = .next { s with rsp := some 1 } ∧ exec (.gfexp 0) s = .next { s with rsp := some 1 } ∧
    entry s.tables.alphaTo k.toNat ≠ 0) ∧
  Encoded 0x07 0x03FFFF00 fun w => .gfexp (Y w)

/-- R117: on a constructed block GFMUL's value is the carry-less product of its operands reduced modulo 0x11D. -/
def Obligations.GfmulIsThePolynomialProduct : Prop :=
  ∀ (s : State) (a b : Byte), s.Ready →
    exec (.gfmul a b) s = .next { s with rsp := some (executed ((reduced (carrylessProduct a b)).setWidth 16)) }

/-- R117: the field laws of gfmul and gfinv over the tables of a constructed block. -/
def Obligations.FieldLawsHold : Prop :=
  ∀ s : State, s.Ready → ∀ a b c : Byte,
    gfmul s.tables a b = gfmul s.tables b a ∧
    gfmul s.tables a 0 = 0 ∧ gfmul s.tables 1 a = a ∧
    (a ≠ 0 → gfmul s.tables a (gfinv s.tables a) = 1) ∧
    gfmul s.tables (gfmul s.tables a b) c = gfmul s.tables a (gfmul s.tables b c) ∧
    gfmul s.tables a (b ^^^ c) = gfmul s.tables a b ^^^ gfmul s.tables a c

/-! ### Syndromes and discrepancy -/

/-- R130, R131: SYND writes SYN[j] for j in 1..2·T and 0 elsewhere, changes nothing else and responds 0; NOTINIT while
TV = 0. -/
def Obligations.SyndEvaluatesTheSyndromes : Prop :=
  (∀ s : State, s.tv = true → s.t.toNat ≤ s.par.tmax →
    ∃ t, exec .synd s = .next t ∧ t = { s with syn := t.syn, rsp := some (executed 0) } ∧
      t.syn.length = 2 * s.par.tmax + 1 ∧
      (∀ j, 1 ≤ j → j ≤ 2 * s.t.toNat → entry t.syn j = syndromeOf s j) ∧
      entry t.syn 0 = 0 ∧ ∀ j, 2 * s.t.toNat < j → entry t.syn j = 0) ∧
  (∀ s : State, s.tv = false → exec .synd s = .next (rejected 2 s)) ∧
  Encoded 0x08 0x03FFFFFF fun _ => .synd

/-- R132: a single set bit at position p gives SYN[j] = ALPHA_TO[(j·p) mod 255] for every j in 1..2·T. -/
def Obligations.SingleSetBitGivesItsPowers : Prop :=
  ∀ (s : State) (p : Nat), s.Ready → p < 8 * s.dlen.toNat → (∀ q < 8 * s.dlen.toNat, bit s q = decide (q = p)) →
    ∃ t, exec .synd s = .next t ∧
      ∀ j, 1 ≤ j → j ≤ 2 * s.t.toNat → entry t.syn j = entry powerTable (j * p % 255)

/-- R132: the syndromes of the bytewise xor of two buffers of the same DLEN are the xor of their syndromes. -/
def Obligations.SyndromesAreLinear : Prop :=
  ∀ s u v : State, s.Ready → u.Ready → v.Ready → u.dlen = s.dlen → v.dlen = s.dlen → u.t = s.t → v.t = s.t →
    (∀ k < s.dlen.toNat, readDbuf v k = readDbuf s k ^^^ readDbuf u k) →
    ∃ s' u' v', exec .synd s = .next s' ∧ exec .synd u = .next u' ∧ exec .synd v = .next v' ∧
      ∀ j ≤ 2 * s.t.toNat, entry v'.syn j = entry s'.syn j ^^^ entry u'.syn j

/-- R131, R132: positions p and p' with p ≡ p' (mod 255) contribute the same term, so a buffer that differs from another
in exactly those two bits has the same syndromes. -/
def Obligations.AliasedPositionsCancel : Prop :=
  ∀ (s u : State) (p p' : Nat), s.Ready → u.Ready → u.dlen = s.dlen → u.t = s.t → p ≠ p' → p % 255 = p' % 255 →
    p < 8 * s.dlen.toNat → p' < 8 * s.dlen.toNat →
    (∀ q < 8 * s.dlen.toNat, bit u q = (bit s q != decide (q = p ∨ q = p'))) →
    ∃ s' u', exec .synd s = .next s' ∧ exec .synd u = .next u' ∧ ∀ j ≤ 2 * s.t.toNat, entry u'.syn j = entry s'.syn j

/-- R132: SYN[2j] = gfmul(SYN[j], SYN[j]) whenever 2j ≤ 2·T. -/
def Obligations.EvenSyndromesAreSquares : Prop :=
  ∀ s : State, s.Ready →
    ∃ t, exec .synd s = .next t ∧
      ∀ j, 1 ≤ j → 2 * j ≤ 2 * s.t.toNat →
        entry t.syn (2 * j) = mul standardTables (entry t.syn j) (entry t.syn j)

/-- R133, R134: DISC writes DISC and NODISC, changes nothing else and responds NODISC; NOTINIT while TV = 0. -/
def Obligations.DiscComparesWithTheReference : Prop :=
  (∀ s : State, s.tv = true → s.t.toNat ≤ s.par.tmax →
    ∃ t, exec .disc s = .next t ∧
      t = { s with disc := t.disc, nodisc := t.nodisc, rsp := some (if t.nodisc then 1 else 0) } ∧
      t.disc.length = 2 * s.par.tmax + 1 ∧
      (∀ i, 1 ≤ i → i ≤ comparedUpTo s → entry t.disc i = entry s.syn i ^^^ readRef s i) ∧
      entry t.disc 0 = 0 ∧ (∀ i, comparedUpTo s < i → entry t.disc i = 0) ∧
      (t.nodisc = true ↔ ∀ i, 1 ≤ i → i ≤ 2 * s.t.toNat → entry t.disc i = 0)) ∧
  (∀ s : State, s.tv = false → exec .disc s = .next (rejected 2 s)) ∧
  Encoded 0x09 0x03FFFFFF fun _ => .disc

/-! ### The locator -/

/-- R140, R141: BMA runs the recurrence through the steps r = 1..2·T from its initial values, leaves its registers in
SIGMA, OSIG, L, MVAL and B, changes nothing else and responds L; NOTINIT while TV = 0. -/
def Obligations.BmaRunsTheRecurrence : Prop :=
  (∀ s : State, s.tv = true → s.t.toNat ≤ s.par.tmax →
    ∃ (t : State) (q : Nat → Bm), exec .bma s = .next t ∧ q 0 = bmStart ∧
      (∀ r, 1 ≤ r → r ≤ 2 * s.t.toNat → BmStep s.tables s.t.toNat s.disc r (q (r - 1)) (q r)) ∧
      t = { s with
        sigma := t.sigma, osig := t.osig, l := t.l, mval := t.mval, b := t.b,
        rsp := some (executed (t.l.setWidth 16)) } ∧
      t.sigma.length = s.par.tmax + 1 ∧ (∀ k, entry t.sigma k = (q (2 * s.t.toNat)).sigma k) ∧
      t.osig.length = s.par.tmax + 1 ∧ (∀ k, entry t.osig k = (q (2 * s.t.toNat)).osig k) ∧
      t.l.toNat = (q (2 * s.t.toNat)).l ∧ t.mval.toNat = (q (2 * s.t.toNat)).mval ∧ t.b = (q (2 * s.t.toNat)).b) ∧
  (∀ s : State, s.tv = false → exec .bma s = .next (rejected 2 s)) ∧
  Encoded 0x0A 0x03FFFFFF fun _ => .bma

/-- R141: BMA on an all-zero DISC ends with SIGMA = OSIG = e0, L = 0, B = 1 and MVAL = 2·T + 1. -/
def Obligations.BmaOnZeroDiscrepancies : Prop :=
  ∀ s : State, s.Ready → (∀ i ≤ 2 * s.t.toNat, entry s.disc i = 0) →
    ∃ t, exec .bma s = .next t ∧ (∀ k, entry t.sigma k = e0 k) ∧ (∀ k, entry t.osig k = e0 k) ∧
      t.l = 0 ∧ t.b = 1 ∧ t.mval.toNat = 2 * s.t.toNat + 1

/-- R142: at the start of every step r, L ≤ r − 1, 1 ≤ MVAL, B ≠ 0 and SIGMA[0] = OSIG[0] = 1; over a step L stays or
grows to r − L. -/
def Obligations.RecurrenceRegistersStayInRange : Prop :=
  ∀ (s : State) (r : Nat), s.Ready → 1 ≤ r → r ≤ 2 * s.t.toNat →
    let q := recurrenceAfter s.tables s.t.toNat s.disc (s.par.tmax + 1) (r - 1)
    let q' := recurrenceAfter s.tables s.t.toNat s.disc (s.par.tmax + 1) r
    q.l ≤ r - 1 ∧ 1 ≤ q.mval ∧ q.mval ≤ r ∧ q.b ≠ 0 ∧ elem q.sigma 0 = 1 ∧ elem q.osig 0 = 1 ∧
      (q'.l = q.l ∨ (q.l < q'.l ∧ q'.l = r - q.l))

/-- R19, R140: when BMA ends with L ≤ T, SIGMA is a linear recurrence of length L for the discrepancy sequence: every
DISC[r] with L < r ≤ 2·T is the sum of SIGMA[i]·DISC[r − i] over i in 1..L. -/
def Obligations.LocatorIsARecurrenceOfTheDiscrepancies : Prop :=
  ∀ s : State, s.Ready →
    ∃ t, exec .bma s = .next t ∧
      (t.l.toNat ≤ s.t.toNat → ∀ r, t.l.toNat < r → r ≤ 2 * s.t.toNat →
        entry s.disc r =
          xorUpTo t.l.toNat fun k => mul standardTables (entry t.sigma (k + 1)) (entry s.disc (r - (k + 1))))

/-! ### The Chien search and RECOVER -/

/-- R150, R151, R152: CHIEN flips exactly the marked positions below min(255, 8·DLEN), counts them in FLIPCNT, changes
nothing else and responds FLIPCNT; NOTINIT while TV = 0. Every bit of every byte of DBUF is covered. -/
def Obligations.ChienFlipsTheMarkedPositions : Prop :=
  (∀ s : State, s.tv = true →
    ∃ t, exec .chien s = .next t ∧
      t = { s with dbuf := t.dbuf, flipcnt := t.flipcnt, rsp := some (executed (t.flipcnt.setWidth 16)) } ∧
      (∀ p, bit t p = (bit s p != marked s p)) ∧
      t.flipcnt.toNat = ((List.range 255).filter fun i => marked s i).length) ∧
  (∀ s : State, s.tv = false → exec .chien s = .next (rejected 2 s)) ∧
  Encoded 0x0B 0x03FFFFFF fun _ => .chien

/-- R152, R237: a second CHIEN with nothing between finds the same positions, restores every byte of DBUF and gives the
same FLIPCNT. -/
def Obligations.ChienTwiceRestoresTheData : Prop :=
  ∀ s : State, s.tv = true →
    ∃ t u, exec .chien s = .next t ∧ exec .chien t = .next u ∧
      (∀ k, readDbuf u k = readDbuf s k) ∧ u.flipcnt = t.flipcnt ∧ u.rsp = t.rsp

/-- R153, R236: RECOVER is SYND, DISC and, where a discrepancy is left, BMA and CHIEN; with none it sets the recurrence to
its initial values and FLIPCNT to 0 and leaves DBUF. VALUE is NODISC over FLIPCNT. NOTINIT while TV = 0. -/
def Obligations.RecoverComposesTheFourSteps : Prop :=
  (∀ s : State, s.tv = true →
    ∃ s1 s2 u, exec .synd s = .next s1 ∧ exec .disc s1 = .next s2 ∧ exec .recover s = .next u ∧
      (s2.nodisc = true →
        u = { s2 with
          sigma := 1 :: List.replicate s.par.tmax 0, osig := 1 :: List.replicate s.par.tmax 0,
          l := 0, mval := 1, b := 1, flipcnt := 0, rsp := some 0x00000100 }) ∧
      (s2.nodisc = false →
        ∃ s3 s4, exec .bma s2 = .next s3 ∧ exec .chien s3 = .next s4 ∧
          u = { s4 with rsp := some (executed (s4.flipcnt.setWidth 16)) })) ∧
  (∀ s : State, s.tv = false → exec .recover s = .next (rejected 2 s)) ∧
  Encoded 0x0C 0x03FFFFFF fun _ => .recover

/-- R236, the case NODISC = 1: BMA and CHIEN after it leave SIGMA = e0, L = 0, MVAL = 2·T + 1 and FLIPCNT = 0, and DBUF
is unchanged either way. -/
def Obligations.StepwiseDecodeOfCleanData : Prop :=
  ∀ s s2 : State, s.Ready → exec .disc s = .next s2 → s2.nodisc = true →
    ∃ s3 s4, exec .bma s2 = .next s3 ∧ exec .chien s3 = .next s4 ∧
      (∀ k, entry s4.sigma k = e0 k) ∧ s4.l = 0 ∧ s4.mval.toNat = 2 * s.t.toNat + 1 ∧ s4.flipcnt = 0 ∧
      ∀ k, readDbuf s4 k = readDbuf s k

/-- R154: the response of RECOVER and the new DBUF[0..<DLEN] are a function of DBUF[0..<DLEN], DLEN, T, RLEN,
REF[1..min(2·T, RLEN − 1)] and CHIEN_EXP, whatever earlier commands left; the bytes at DLEN and above are not touched. -/
def Obligations.RecoverIsAFunctionOfItsInputs : Prop :=
  ∀ s u : State, s.Ready → u.Ready → u.par.chienExp = s.par.chienExp → u.dlen = s.dlen → u.t = s.t → u.rlen = s.rlen →
    (∀ i, 1 ≤ i → i ≤ comparedUpTo s → readRef u i = readRef s i) →
    (∀ k < s.dlen.toNat, readDbuf u k = readDbuf s k) →
    ∃ s' u', exec .recover s = .next s' ∧ exec .recover u = .next u' ∧ u'.rsp = s'.rsp ∧
      (∀ k < s.dlen.toNat, readDbuf u' k = readDbuf s' k) ∧
      (∀ k, s.dlen.toNat ≤ k → readDbuf s' k = readDbuf s k) ∧
      (∀ k, s.dlen.toNat ≤ k → readDbuf u' k = readDbuf u k)

/-- R153, R155: when every compared syndrome of the data equals the reference, RECOVER reports NODISC, flips nothing and
leaves every byte of DBUF. -/
def Obligations.RecoverLeavesMatchingDataUnchanged : Prop :=
  ∀ s : State, s.Ready → (∀ i, 1 ≤ i → i ≤ comparedUpTo s → readRef s i = syndromeOf s i) →
    ∃ t, exec .recover s = .next t ∧ t.nodisc = true ∧ t.flipcnt = 0 ∧ t.rsp = some 0x00000100 ∧
      ∀ k, readDbuf t k = readDbuf s k

/-- R155, the single-bit case, under CHIEN_EXP = RECIPROCAL (R11): when DBUF differs from an original in one bit below
min(255, 8·DLEN) and REF holds the original's SYND, RECOVER restores the original. R155 derives it from evaluations of
recorded buffers and marks the general case "from general knowledge, not in source". -/
def Obligations.SingleBitErrorIsCorrected : Prop :=
  ∀ (o o1 s : State) (p : Nat), o.Ready → s.Ready → exec .synd o = .next o1 → s.par.chienExp = .reciprocal →
    s.t = o.t → s.dlen = o.dlen → s.rlen.toNat = 2 * s.t.toNat + 1 →
    (∀ i, 1 ≤ i → i ≤ 2 * s.t.toNat → readRef s i = entry o1.syn i) →
    p < min 255 (8 * s.dlen.toNat) → (∀ q < 8 * s.dlen.toNat, bit s q = (bit o q != decide (q = p))) →
    ∃ t, exec .recover s = .next t ∧ (∀ k < s.dlen.toNat, readDbuf t k = readDbuf o k) ∧
      t.nodisc = false ∧ t.flipcnt = 1 ∧ t.l = 1

/-! ### Host access -/

/-- R172: WRDATA writes DBUF[X] and nothing else; RANGE when X ≥ DMAX. -/
def Obligations.WrdataStoresOneByte : Prop :=
  (∀ (s : State) (x : Half) (y : Byte), x.toNat < s.par.dmax →
    ∃ t, exec (.wrdata x y) s = .next t ∧ t = { s with dbuf := t.dbuf, rsp := some (executed 0) } ∧
      ∀ k, readDbuf t k = if k = x.toNat then y else readDbuf s k) ∧
  (∀ (s : State) (x : Half) (y : Byte), s.par.dmax ≤ x.toNat → exec (.wrdata x y) s = .next (rejected 3 s)) ∧
  Encoded 0x10 0x03000000 fun w => .wrdata (X w) (Y w)

/-- R175: WRREF writes REF[X] and nothing else; RANGE when X > 2·TMAX. -/
def Obligations.WrrefStoresOneElement : Prop :=
  (∀ (s : State) (x : Half) (y : Byte), x.toNat ≤ 2 * s.par.tmax →
    ∃ t, exec (.wrref x y) s = .next t ∧ t = { s with ref := t.ref, rsp := some (executed 0) } ∧
      ∀ k, readRef t k = if k = x.toNat then y else readRef s k) ∧
  (∀ (s : State) (x : Half) (y : Byte), 2 * s.par.tmax < x.toNat → exec (.wrref x y) s = .next (rejected 3 s)) ∧
  Encoded 0x13 0x03000000 fun w => .wrref (X w) (Y w)

/-- R174, R177: SETDLEN and SETRLEN set their length register within its bound, and are rejected with RANGE beyond it. -/
def Obligations.LengthCommandsSetTheirRegister : Prop :=
  (∀ (s : State) (x : Half), x.toNat ≤ s.par.dmax →
    exec (.setdlen x) s = .next { s with dlen := x, rsp := some (executed 0) }) ∧
  (∀ (s : State) (x : Half), s.par.dmax < x.toNat → exec (.setdlen x) s = .next (rejected 3 s)) ∧
  Encoded 0x12 0x030000FF (fun w => .setdlen (X w)) ∧
  (∀ (s : State) (x : Half), x.toNat ≤ 2 * s.par.tmax + 1 →
    exec (.setrlen x) s = .next { s with rlen := x, rsp := some (executed 0) }) ∧
  (∀ (s : State) (x : Half), 2 * s.par.tmax + 1 < x.toNat → exec (.setrlen x) s = .next (rejected 3 s)) ∧
  Encoded 0x15 0x030000FF (fun w => .setrlen (X w))

/-- R173, R176: RDDATA and RDREF respond with the element and change nothing else; RANGE beyond the space. -/
def Obligations.BufferReadsRespondWithTheElement : Prop :=
  (∀ (s : State) (x : Half), x.toNat < s.par.dmax →
    exec (.rddata x) s = .next { s with rsp := some (executed ((readDbuf s x.toNat).setWidth 16)) }) ∧
  (∀ (s : State) (x : Half), s.par.dmax ≤ x.toNat → exec (.rddata x) s = .next (rejected 3 s)) ∧
  Encoded 0x11 0x030000FF (fun w => .rddata (X w)) ∧
  (∀ (s : State) (x : Half), x.toNat ≤ 2 * s.par.tmax →
    exec (.rdref x) s = .next { s with rsp := some (executed ((readRef s x.toNat).setWidth 16)) }) ∧
  (∀ (s : State) (x : Half), 2 * s.par.tmax < x.toNat → exec (.rdref x) s = .next (rejected 3 s)) ∧
  Encoded 0x14 0x030000FF (fun w => .rdref (X w))

/-- R178, R179: RDSYN and RDDISC respond with the element and change nothing else; RANGE when X > 2·TMAX. Under the
invariants index 0 and the indices above 2·T read 0. -/
def Obligations.SyndromeReadsRespondWithTheElement : Prop :=
  (∀ (s : State) (x : Half), x.toNat ≤ 2 * s.par.tmax →
    exec (.rdsyn x) s = .next { s with rsp := some (executed ((entry s.syn x.toNat).setWidth 16)) } ∧
    exec (.rddisc x) s = .next { s with rsp := some (executed ((entry s.disc x.toNat).setWidth 16)) }) ∧
  (∀ (s : State) (x : Half), 2 * s.par.tmax < x.toNat →
    exec (.rdsyn x) s = .next (rejected 3 s) ∧ exec (.rddisc x) s = .next (rejected 3 s)) ∧
  (∀ (s : State) (x : Half), s.Inv → x.toNat = 0 ∨ (2 * s.t.toNat < x.toNat ∧ x.toNat ≤ 2 * s.par.tmax) →
    exec (.rdsyn x) s = .next { s with rsp := some 0 } ∧ exec (.rddisc x) s = .next { s with rsp := some 0 }) ∧
  Encoded 0x16 0x030000FF (fun w => .rdsyn (X w)) ∧
  Encoded 0x17 0x030000FF (fun w => .rddisc (X w))

/-- R180, R181: RDSIG and RDOSIG respond with the coefficient and change nothing else; RANGE when X > TMAX. Under the
invariants index 0 reads 1 and the indices T+1..TMAX read 0. -/
def Obligations.LocatorReadsRespondWithTheCoefficient : Prop :=
  (∀ (s : State) (x : Half), x.toNat ≤ s.par.tmax →
    exec (.rdsig x) s = .next { s with rsp := some (executed ((entry s.sigma x.toNat).setWidth 16)) } ∧
    exec (.rdosig x) s = .next { s with rsp := some (executed ((entry s.osig x.toNat).setWidth 16)) }) ∧
  (∀ (s : State) (x : Half), s.par.tmax < x.toNat →
    exec (.rdsig x) s = .next (rejected 3 s) ∧ exec (.rdosig x) s = .next (rejected 3 s)) ∧
  (∀ s : State, s.Inv →
    exec (.rdsig 0) s = .next { s with rsp := some 1 } ∧ exec (.rdosig 0) s = .next { s with rsp := some 1 }) ∧
  (∀ (s : State) (x : Half), s.Inv → s.t.toNat < x.toNat → x.toNat ≤ s.par.tmax →
    exec (.rdsig x) s = .next { s with rsp := some 0 } ∧ exec (.rdosig x) s = .next { s with rsp := some 0 }) ∧
  Encoded 0x18 0x030000FF (fun w => .rdsig (X w)) ∧
  Encoded 0x19 0x030000FF (fun w => .rdosig (X w))

/-- R41, R42, R182: RDREG responds with the view of a register number 0..10, STATUS as it stood before the command, and
changes nothing else; RANGE for 11..255. -/
def Obligations.RdregRespondsWithTheView : Prop :=
  (∀ (s : State) (y : Byte), y.toNat ≤ 10 →
    ∃ v : Half, exec (.rdreg y) s = .next { s with rsp := some (executed v) } ∧ v.toNat = (views s).getD y.toNat 0) ∧
  (∀ (s : State) (y : Byte), 10 < y.toNat → exec (.rdreg y) s = .next (rejected 3 s)) ∧
  Encoded 0x1A 0x03FFFF00 fun w => .rdreg (Y w)

/-! ### The assembler -/

/-- R89: a command line whose operands fit their fields assembles to one word that decodes to that command, and one whose
operands do not is an assembler error; operands stand in the order R89 writes them. -/
def Obligations.AssembledCommandsDecode : Prop :=
  (∀ (op : Opcode) (vs : List Nat), operandsFit vs op.operandWidths = true →
    ∃ w, assembleLine (.command op vs) = some [w] ∧ decode w = .ok (commandOf op vs)) ∧
  (∀ (op : Opcode) (vs : List Nat), operandsFit vs op.operandWidths = false → assembleLine (.command op vs) = none) ∧
  (∀ a b : Nat, commandOf .gfmul [a, b] = .gfmul (BitVec.ofNat 8 a) (BitVec.ofNat 8 b) ∨ 2 ^ 8 ≤ a) ∧
  (∀ a b : Nat, commandOf .wrdata [a, b] = .wrdata (BitVec.ofNat 16 a) (BitVec.ofNat 8 b)) ∧
  (∀ a : Nat, commandOf .setdlen [a] = .setdlen (BitVec.ofNat 16 a) ∧ commandOf .init [a] = .init (BitVec.ofNat 8 a))

/-- R90: LDBUF and LDREF expand to one store per value at rising indices, SETBUF to the stores of LDBUF 0 and a SETDLEN of
the number of values; LDBUF is an error if addr + k > 0xFFFF. -/
def Obligations.PseudoInstructionsExpand : Prop :=
  (∀ (first : Nat) (vs : List Nat), vs ≠ [] → (∀ v ∈ vs, v < 2 ^ 8) → first + (vs.length - 1) ≤ 0xFFFF →
    ∃ ws us, assembleLine (.ldbuf first vs) = some ws ∧ assembleLine (.ldref first vs) = some us ∧
      ws.length = vs.length ∧ us.length = vs.length ∧
      ∀ k < vs.length,
        decode (ws.getD k 0) = .ok (.wrdata (BitVec.ofNat 16 (first + k)) (BitVec.ofNat 8 (vs.getD k 0))) ∧
        decode (us.getD k 0) = .ok (.wrref (BitVec.ofNat 16 (first + k)) (BitVec.ofNat 8 (vs.getD k 0)))) ∧
  (∀ vs : List Nat, vs ≠ [] → (∀ v ∈ vs, v < 2 ^ 8) → vs.length ≤ 0xFFFF →
    ∃ ws w, assembleLine (.ldbuf 0 vs) = some ws ∧ assembleLine (.setbuf vs) = some (ws ++ [w]) ∧
      decode w = .ok (.setdlen (BitVec.ofNat 16 vs.length))) ∧
  (∀ (first : Nat) (vs : List Nat), 0xFFFF < first + (vs.length - 1) → assembleLine (.ldbuf first vs) = none)
end

