-- ==== Sys2Proof/Laws/Encoding.lean ====
section
/-! SUPPORT. The bits of an encoded word: its fields are the ones it was made of, and under the mask of its format it is
its opcode's match (30_encoding.md R80, R81). -/

namespace Sys2Proof

theorem fieldsWord_bit (opc : BitVec 6) (x : Half) (y : Byte) (k : Nat) (hk : k < 32) :
    (fieldsWord opc x y)[k] =
      if 26 ≤ k then opc.getLsbD (k - 26) else if 24 ≤ k then false
      else if 8 ≤ k then x.getLsbD (k - 8) else y.getLsbD k := by
  unfold fieldsWord
  simp
  grind

theorem opcOf_fieldsWord (opc : BitVec 6) (x : Half) (y : Byte) : opcOf (fieldsWord opc x y) = opc := by
  unfold opcOf fieldsWord
  ext k hk
  simp
  grind

theorem xOf_fieldsWord (opc : BitVec 6) (x : Half) (y : Byte) : xOf (fieldsWord opc x y) = x := by
  unfold xOf fieldsWord
  ext k hk
  simp
  grind

theorem yOf_fieldsWord (opc : BitVec 6) (x : Half) (y : Byte) : yOf (fieldsWord opc x y) = y := by
  unfold yOf fieldsWord
  ext k hk
  simp
  grind

theorem mask_n_bit (k : Nat) (hk : k < 32) : (Format.mask .n)[k] = true := by
  revert k; decide

theorem mask_y_bit (k : Nat) (hk : k < 32) : (Format.mask .y)[k] = decide (8 ≤ k) := by
  revert k; decide

theorem mask_xy8_bit (k : Nat) (hk : k < 32) : (Format.mask .xy8)[k] = decide (16 ≤ k) := by
  revert k; decide

theorem mask_xy_bit (k : Nat) (hk : k < 32) : (Format.mask .xy)[k] = decide (24 ≤ k) := by
  revert k; decide

theorem mask_x_bit (k : Nat) (hk : k < 32) : (Format.mask .x)[k] = decide (24 ≤ k ∨ k < 8) := by
  revert k; decide

theorem match32_bit (op : Opcode) (k : Nat) (hk : k < 32) :
    op.match32[k] = (decide (26 ≤ k) && op.bits.getLsbD (k - 26)) := by
  unfold Opcode.match32
  simp; grind

/-! ### The fixed bits of an encoded word, by format (R81) -/

theorem fixed_n (op : Opcode) (h : op.format = .n) :
    fieldsWord op.bits 0 0 &&& op.format.mask = op.match32 := by
  ext k hk
  simp only [BitVec.getElem_and, fieldsWord_bit, match32_bit, h, mask_n_bit]
  simp

theorem fixed_y (op : Opcode) (h : op.format = .y) (y : Byte) :
    fieldsWord op.bits 0 y &&& op.format.mask = op.match32 := by
  ext k hk
  simp only [BitVec.getElem_and, fieldsWord_bit, match32_bit, h, mask_y_bit]
  simp; grind

theorem fixed_xy8 (op : Opcode) (h : op.format = .xy8) (a : Byte) (y : Byte) :
    fieldsWord op.bits (a.setWidth 16) y &&& op.format.mask = op.match32 := by
  ext k hk
  simp only [BitVec.getElem_and, fieldsWord_bit, match32_bit, h, mask_xy8_bit]
  simp; grind

theorem fixed_xy (op : Opcode) (h : op.format = .xy) (x : Half) (y : Byte) :
    fieldsWord op.bits x y &&& op.format.mask = op.match32 := by
  ext k hk
  simp only [BitVec.getElem_and, fieldsWord_bit, match32_bit, h, mask_xy_bit]
  simp; grind

theorem fixed_x (op : Opcode) (h : op.format = .x) (x : Half) :
    fieldsWord op.bits x 0 &&& op.format.mask = op.match32 := by
  ext k hk
  simp only [BitVec.getElem_and, fieldsWord_bit, match32_bit, h, mask_x_bit]
  simp; grind

theorem ofBits_bits (op : Opcode) : Opcode.ofBits op.bits = some op := by cases op <;> rfl

theorem bits_ofBits (b : BitVec 6) (op : Opcode) (h : Opcode.ofBits b = some op) : op.bits = b := by
  revert op; revert b; decide +kernel

end Sys2Proof
end

