-- ==== Sys2Proof/Laws/State.lean ====
section
/-! SUPPORT. One lemma per field per named update of the state: what each operation writes, and that it writes nothing
else. Later proofs rewrite with these and unfold no record update. -/

namespace Sys2Proof.Machine

variable (s : State)

@[simp] theorem respond_par (v : Half) : (respond v s).par = s.par := rfl
@[simp] theorem respond_tables (v : Half) : (respond v s).tables = s.tables := rfl
@[simp] theorem respond_tv (v : Half) : (respond v s).tv = s.tv := rfl
@[simp] theorem respond_t (v : Half) : (respond v s).t = s.t := rfl
@[simp] theorem respond_dbuf (v : Half) : (respond v s).dbuf = s.dbuf := rfl
@[simp] theorem respond_dlen (v : Half) : (respond v s).dlen = s.dlen := rfl
@[simp] theorem respond_ref (v : Half) : (respond v s).ref = s.ref := rfl
@[simp] theorem respond_rlen (v : Half) : (respond v s).rlen = s.rlen := rfl
@[simp] theorem respond_syn (v : Half) : (respond v s).syn = s.syn := rfl
@[simp] theorem respond_disc (v : Half) : (respond v s).disc = s.disc := rfl
@[simp] theorem respond_sigma (v : Half) : (respond v s).sigma = s.sigma := rfl
@[simp] theorem respond_osig (v : Half) : (respond v s).osig = s.osig := rfl
@[simp] theorem respond_l (v : Half) : (respond v s).l = s.l := rfl
@[simp] theorem respond_mval (v : Half) : (respond v s).mval = s.mval := rfl
@[simp] theorem respond_b (v : Half) : (respond v s).b = s.b := rfl
@[simp] theorem respond_flipcnt (v : Half) : (respond v s).flipcnt = s.flipcnt := rfl
@[simp] theorem respond_nodisc (v : Half) : (respond v s).nodisc = s.nodisc := rfl
@[simp] theorem respond_err (v : Half) : (respond v s).err = s.err := rfl
@[simp] theorem respond_ecode (v : Half) : (respond v s).ecode = s.ecode := rfl
@[simp] theorem respond_inputs (v : Half) : (respond v s).inputs = s.inputs := rfl
@[simp] theorem respond_rsp (v : Half) : (respond v s).rsp = some (responseWord false 0 v) := rfl
@[simp] theorem respond_taken (v : Half) : (respond v s).taken = s.taken := rfl
@[simp] theorem respond_resets (v : Half) : (respond v s).resets = s.resets := rfl

@[simp] theorem reject_par (c : Cause) : (reject c s).par = s.par := rfl
@[simp] theorem reject_tables (c : Cause) : (reject c s).tables = s.tables := rfl
@[simp] theorem reject_tv (c : Cause) : (reject c s).tv = s.tv := rfl
@[simp] theorem reject_t (c : Cause) : (reject c s).t = s.t := rfl
@[simp] theorem reject_dbuf (c : Cause) : (reject c s).dbuf = s.dbuf := rfl
@[simp] theorem reject_dlen (c : Cause) : (reject c s).dlen = s.dlen := rfl
@[simp] theorem reject_ref (c : Cause) : (reject c s).ref = s.ref := rfl
@[simp] theorem reject_rlen (c : Cause) : (reject c s).rlen = s.rlen := rfl
@[simp] theorem reject_syn (c : Cause) : (reject c s).syn = s.syn := rfl
@[simp] theorem reject_disc (c : Cause) : (reject c s).disc = s.disc := rfl
@[simp] theorem reject_sigma (c : Cause) : (reject c s).sigma = s.sigma := rfl
@[simp] theorem reject_osig (c : Cause) : (reject c s).osig = s.osig := rfl
@[simp] theorem reject_l (c : Cause) : (reject c s).l = s.l := rfl
@[simp] theorem reject_mval (c : Cause) : (reject c s).mval = s.mval := rfl
@[simp] theorem reject_b (c : Cause) : (reject c s).b = s.b := rfl
@[simp] theorem reject_flipcnt (c : Cause) : (reject c s).flipcnt = s.flipcnt := rfl
@[simp] theorem reject_nodisc (c : Cause) : (reject c s).nodisc = s.nodisc := rfl
@[simp] theorem reject_err (c : Cause) : (reject c s).err = true := rfl
@[simp] theorem reject_ecode (c : Cause) : (reject c s).ecode = firstCause s.ecode c := rfl
@[simp] theorem reject_inputs (c : Cause) : (reject c s).inputs = s.inputs := rfl
@[simp] theorem reject_rsp (c : Cause) : (reject c s).rsp = some (responseWord true c.code 0) := rfl
@[simp] theorem reject_taken (c : Cause) : (reject c s).taken = s.taken := rfl
@[simp] theorem reject_resets (c : Cause) : (reject c s).resets = s.resets := rfl

@[simp] theorem clearRecord_par : (clearRecord s).par = s.par := rfl
@[simp] theorem clearRecord_tables : (clearRecord s).tables = s.tables := rfl
@[simp] theorem clearRecord_tv : (clearRecord s).tv = s.tv := rfl
@[simp] theorem clearRecord_t : (clearRecord s).t = s.t := rfl
@[simp] theorem clearRecord_dbuf : (clearRecord s).dbuf = s.dbuf := rfl
@[simp] theorem clearRecord_dlen : (clearRecord s).dlen = s.dlen := rfl
@[simp] theorem clearRecord_ref : (clearRecord s).ref = s.ref := rfl
@[simp] theorem clearRecord_rlen : (clearRecord s).rlen = s.rlen := rfl
@[simp] theorem clearRecord_syn : (clearRecord s).syn = s.syn := rfl
@[simp] theorem clearRecord_disc : (clearRecord s).disc = s.disc := rfl
@[simp] theorem clearRecord_sigma : (clearRecord s).sigma = s.sigma := rfl
@[simp] theorem clearRecord_osig : (clearRecord s).osig = s.osig := rfl
@[simp] theorem clearRecord_l : (clearRecord s).l = s.l := rfl
@[simp] theorem clearRecord_mval : (clearRecord s).mval = s.mval := rfl
@[simp] theorem clearRecord_b : (clearRecord s).b = s.b := rfl
@[simp] theorem clearRecord_flipcnt : (clearRecord s).flipcnt = s.flipcnt := rfl
@[simp] theorem clearRecord_nodisc : (clearRecord s).nodisc = s.nodisc := rfl
@[simp] theorem clearRecord_err : (clearRecord s).err = false := rfl
@[simp] theorem clearRecord_ecode : (clearRecord s).ecode = 0 := rfl
@[simp] theorem clearRecord_inputs : (clearRecord s).inputs = s.inputs := rfl
@[simp] theorem clearRecord_rsp : (clearRecord s).rsp = s.rsp := rfl
@[simp] theorem clearRecord_taken : (clearRecord s).taken = s.taken := rfl
@[simp] theorem clearRecord_resets : (clearRecord s).resets = s.resets := rfl

@[simp] theorem setDlen_par (x : Half) : (setDlen x s).par = s.par := rfl
@[simp] theorem setDlen_tables (x : Half) : (setDlen x s).tables = s.tables := rfl
@[simp] theorem setDlen_tv (x : Half) : (setDlen x s).tv = s.tv := rfl
@[simp] theorem setDlen_t (x : Half) : (setDlen x s).t = s.t := rfl
@[simp] theorem setDlen_dbuf (x : Half) : (setDlen x s).dbuf = s.dbuf := rfl
@[simp] theorem setDlen_dlen (x : Half) : (setDlen x s).dlen = x := rfl
@[simp] theorem setDlen_ref (x : Half) : (setDlen x s).ref = s.ref := rfl
@[simp] theorem setDlen_rlen (x : Half) : (setDlen x s).rlen = s.rlen := rfl
@[simp] theorem setDlen_syn (x : Half) : (setDlen x s).syn = s.syn := rfl
@[simp] theorem setDlen_disc (x : Half) : (setDlen x s).disc = s.disc := rfl
@[simp] theorem setDlen_sigma (x : Half) : (setDlen x s).sigma = s.sigma := rfl
@[simp] theorem setDlen_osig (x : Half) : (setDlen x s).osig = s.osig := rfl
@[simp] theorem setDlen_l (x : Half) : (setDlen x s).l = s.l := rfl
@[simp] theorem setDlen_mval (x : Half) : (setDlen x s).mval = s.mval := rfl
@[simp] theorem setDlen_b (x : Half) : (setDlen x s).b = s.b := rfl
@[simp] theorem setDlen_flipcnt (x : Half) : (setDlen x s).flipcnt = s.flipcnt := rfl
@[simp] theorem setDlen_nodisc (x : Half) : (setDlen x s).nodisc = s.nodisc := rfl
@[simp] theorem setDlen_err (x : Half) : (setDlen x s).err = s.err := rfl
@[simp] theorem setDlen_ecode (x : Half) : (setDlen x s).ecode = s.ecode := rfl
@[simp] theorem setDlen_inputs (x : Half) : (setDlen x s).inputs = s.inputs := rfl
@[simp] theorem setDlen_rsp (x : Half) : (setDlen x s).rsp = s.rsp := rfl
@[simp] theorem setDlen_taken (x : Half) : (setDlen x s).taken = s.taken := rfl
@[simp] theorem setDlen_resets (x : Half) : (setDlen x s).resets = s.resets := rfl

@[simp] theorem setRlen_par (x : Half) : (setRlen x s).par = s.par := rfl
@[simp] theorem setRlen_tables (x : Half) : (setRlen x s).tables = s.tables := rfl
@[simp] theorem setRlen_tv (x : Half) : (setRlen x s).tv = s.tv := rfl
@[simp] theorem setRlen_t (x : Half) : (setRlen x s).t = s.t := rfl
@[simp] theorem setRlen_dbuf (x : Half) : (setRlen x s).dbuf = s.dbuf := rfl
@[simp] theorem setRlen_dlen (x : Half) : (setRlen x s).dlen = s.dlen := rfl
@[simp] theorem setRlen_ref (x : Half) : (setRlen x s).ref = s.ref := rfl
@[simp] theorem setRlen_rlen (x : Half) : (setRlen x s).rlen = x := rfl
@[simp] theorem setRlen_syn (x : Half) : (setRlen x s).syn = s.syn := rfl
@[simp] theorem setRlen_disc (x : Half) : (setRlen x s).disc = s.disc := rfl
@[simp] theorem setRlen_sigma (x : Half) : (setRlen x s).sigma = s.sigma := rfl
@[simp] theorem setRlen_osig (x : Half) : (setRlen x s).osig = s.osig := rfl
@[simp] theorem setRlen_l (x : Half) : (setRlen x s).l = s.l := rfl
@[simp] theorem setRlen_mval (x : Half) : (setRlen x s).mval = s.mval := rfl
@[simp] theorem setRlen_b (x : Half) : (setRlen x s).b = s.b := rfl
@[simp] theorem setRlen_flipcnt (x : Half) : (setRlen x s).flipcnt = s.flipcnt := rfl
@[simp] theorem setRlen_nodisc (x : Half) : (setRlen x s).nodisc = s.nodisc := rfl
@[simp] theorem setRlen_err (x : Half) : (setRlen x s).err = s.err := rfl
@[simp] theorem setRlen_ecode (x : Half) : (setRlen x s).ecode = s.ecode := rfl
@[simp] theorem setRlen_inputs (x : Half) : (setRlen x s).inputs = s.inputs := rfl
@[simp] theorem setRlen_rsp (x : Half) : (setRlen x s).rsp = s.rsp := rfl
@[simp] theorem setRlen_taken (x : Half) : (setRlen x s).taken = s.taken := rfl
@[simp] theorem setRlen_resets (x : Half) : (setRlen x s).resets = s.resets := rfl

@[simp] theorem writeDbuf_par (k : Nat) (v : Byte) : (writeDbuf k v s).par = s.par := rfl
@[simp] theorem writeDbuf_tables (k : Nat) (v : Byte) : (writeDbuf k v s).tables = s.tables := rfl
@[simp] theorem writeDbuf_tv (k : Nat) (v : Byte) : (writeDbuf k v s).tv = s.tv := rfl
@[simp] theorem writeDbuf_t (k : Nat) (v : Byte) : (writeDbuf k v s).t = s.t := rfl
@[simp] theorem writeDbuf_dbuf (k : Nat) (v : Byte) : (writeDbuf k v s).dbuf = s.dbuf.write k v := rfl
@[simp] theorem writeDbuf_dlen (k : Nat) (v : Byte) : (writeDbuf k v s).dlen = s.dlen := rfl
@[simp] theorem writeDbuf_ref (k : Nat) (v : Byte) : (writeDbuf k v s).ref = s.ref := rfl
@[simp] theorem writeDbuf_rlen (k : Nat) (v : Byte) : (writeDbuf k v s).rlen = s.rlen := rfl
@[simp] theorem writeDbuf_syn (k : Nat) (v : Byte) : (writeDbuf k v s).syn = s.syn := rfl
@[simp] theorem writeDbuf_disc (k : Nat) (v : Byte) : (writeDbuf k v s).disc = s.disc := rfl
@[simp] theorem writeDbuf_sigma (k : Nat) (v : Byte) : (writeDbuf k v s).sigma = s.sigma := rfl
@[simp] theorem writeDbuf_osig (k : Nat) (v : Byte) : (writeDbuf k v s).osig = s.osig := rfl
@[simp] theorem writeDbuf_l (k : Nat) (v : Byte) : (writeDbuf k v s).l = s.l := rfl
@[simp] theorem writeDbuf_mval (k : Nat) (v : Byte) : (writeDbuf k v s).mval = s.mval := rfl
@[simp] theorem writeDbuf_b (k : Nat) (v : Byte) : (writeDbuf k v s).b = s.b := rfl
@[simp] theorem writeDbuf_flipcnt (k : Nat) (v : Byte) : (writeDbuf k v s).flipcnt = s.flipcnt := rfl
@[simp] theorem writeDbuf_nodisc (k : Nat) (v : Byte) : (writeDbuf k v s).nodisc = s.nodisc := rfl
@[simp] theorem writeDbuf_err (k : Nat) (v : Byte) : (writeDbuf k v s).err = s.err := rfl
@[simp] theorem writeDbuf_ecode (k : Nat) (v : Byte) : (writeDbuf k v s).ecode = s.ecode := rfl
@[simp] theorem writeDbuf_inputs (k : Nat) (v : Byte) : (writeDbuf k v s).inputs = s.inputs := rfl
@[simp] theorem writeDbuf_rsp (k : Nat) (v : Byte) : (writeDbuf k v s).rsp = s.rsp := rfl
@[simp] theorem writeDbuf_taken (k : Nat) (v : Byte) : (writeDbuf k v s).taken = s.taken := rfl
@[simp] theorem writeDbuf_resets (k : Nat) (v : Byte) : (writeDbuf k v s).resets = s.resets := rfl

@[simp] theorem writeRef_par (k : Nat) (v : Byte) : (writeRef k v s).par = s.par := rfl
@[simp] theorem writeRef_tables (k : Nat) (v : Byte) : (writeRef k v s).tables = s.tables := rfl
@[simp] theorem writeRef_tv (k : Nat) (v : Byte) : (writeRef k v s).tv = s.tv := rfl
@[simp] theorem writeRef_t (k : Nat) (v : Byte) : (writeRef k v s).t = s.t := rfl
@[simp] theorem writeRef_dbuf (k : Nat) (v : Byte) : (writeRef k v s).dbuf = s.dbuf := rfl
@[simp] theorem writeRef_dlen (k : Nat) (v : Byte) : (writeRef k v s).dlen = s.dlen := rfl
@[simp] theorem writeRef_ref (k : Nat) (v : Byte) : (writeRef k v s).ref = s.ref.write k v := rfl
@[simp] theorem writeRef_rlen (k : Nat) (v : Byte) : (writeRef k v s).rlen = s.rlen := rfl
@[simp] theorem writeRef_syn (k : Nat) (v : Byte) : (writeRef k v s).syn = s.syn := rfl
@[simp] theorem writeRef_disc (k : Nat) (v : Byte) : (writeRef k v s).disc = s.disc := rfl
@[simp] theorem writeRef_sigma (k : Nat) (v : Byte) : (writeRef k v s).sigma = s.sigma := rfl
@[simp] theorem writeRef_osig (k : Nat) (v : Byte) : (writeRef k v s).osig = s.osig := rfl
@[simp] theorem writeRef_l (k : Nat) (v : Byte) : (writeRef k v s).l = s.l := rfl
@[simp] theorem writeRef_mval (k : Nat) (v : Byte) : (writeRef k v s).mval = s.mval := rfl
@[simp] theorem writeRef_b (k : Nat) (v : Byte) : (writeRef k v s).b = s.b := rfl
@[simp] theorem writeRef_flipcnt (k : Nat) (v : Byte) : (writeRef k v s).flipcnt = s.flipcnt := rfl
@[simp] theorem writeRef_nodisc (k : Nat) (v : Byte) : (writeRef k v s).nodisc = s.nodisc := rfl
@[simp] theorem writeRef_err (k : Nat) (v : Byte) : (writeRef k v s).err = s.err := rfl
@[simp] theorem writeRef_ecode (k : Nat) (v : Byte) : (writeRef k v s).ecode = s.ecode := rfl
@[simp] theorem writeRef_inputs (k : Nat) (v : Byte) : (writeRef k v s).inputs = s.inputs := rfl
@[simp] theorem writeRef_rsp (k : Nat) (v : Byte) : (writeRef k v s).rsp = s.rsp := rfl
@[simp] theorem writeRef_taken (k : Nat) (v : Byte) : (writeRef k v s).taken = s.taken := rfl
@[simp] theorem writeRef_resets (k : Nat) (v : Byte) : (writeRef k v s).resets = s.resets := rfl

@[simp] theorem advanceTo_par (rest : List HostAction) : (advanceTo rest s).par = s.par := rfl
@[simp] theorem advanceTo_tables (rest : List HostAction) : (advanceTo rest s).tables = s.tables := rfl
@[simp] theorem advanceTo_tv (rest : List HostAction) : (advanceTo rest s).tv = s.tv := rfl
@[simp] theorem advanceTo_t (rest : List HostAction) : (advanceTo rest s).t = s.t := rfl
@[simp] theorem advanceTo_dbuf (rest : List HostAction) : (advanceTo rest s).dbuf = s.dbuf := rfl
@[simp] theorem advanceTo_dlen (rest : List HostAction) : (advanceTo rest s).dlen = s.dlen := rfl
@[simp] theorem advanceTo_ref (rest : List HostAction) : (advanceTo rest s).ref = s.ref := rfl
@[simp] theorem advanceTo_rlen (rest : List HostAction) : (advanceTo rest s).rlen = s.rlen := rfl
@[simp] theorem advanceTo_syn (rest : List HostAction) : (advanceTo rest s).syn = s.syn := rfl
@[simp] theorem advanceTo_disc (rest : List HostAction) : (advanceTo rest s).disc = s.disc := rfl
@[simp] theorem advanceTo_sigma (rest : List HostAction) : (advanceTo rest s).sigma = s.sigma := rfl
@[simp] theorem advanceTo_osig (rest : List HostAction) : (advanceTo rest s).osig = s.osig := rfl
@[simp] theorem advanceTo_l (rest : List HostAction) : (advanceTo rest s).l = s.l := rfl
@[simp] theorem advanceTo_mval (rest : List HostAction) : (advanceTo rest s).mval = s.mval := rfl
@[simp] theorem advanceTo_b (rest : List HostAction) : (advanceTo rest s).b = s.b := rfl
@[simp] theorem advanceTo_flipcnt (rest : List HostAction) : (advanceTo rest s).flipcnt = s.flipcnt := rfl
@[simp] theorem advanceTo_nodisc (rest : List HostAction) : (advanceTo rest s).nodisc = s.nodisc := rfl
@[simp] theorem advanceTo_err (rest : List HostAction) : (advanceTo rest s).err = s.err := rfl
@[simp] theorem advanceTo_ecode (rest : List HostAction) : (advanceTo rest s).ecode = s.ecode := rfl
@[simp] theorem advanceTo_inputs (rest : List HostAction) : (advanceTo rest s).inputs = rest := rfl
@[simp] theorem advanceTo_rsp (rest : List HostAction) : (advanceTo rest s).rsp = s.rsp := rfl
@[simp] theorem advanceTo_taken (rest : List HostAction) : (advanceTo rest s).taken = s.taken := rfl
@[simp] theorem advanceTo_resets (rest : List HostAction) : (advanceTo rest s).resets = s.resets := rfl

@[simp] theorem takeResponse_par : (takeResponse s).par = s.par := rfl
@[simp] theorem takeResponse_tables : (takeResponse s).tables = s.tables := rfl
@[simp] theorem takeResponse_tv : (takeResponse s).tv = s.tv := rfl
@[simp] theorem takeResponse_t : (takeResponse s).t = s.t := rfl
@[simp] theorem takeResponse_dbuf : (takeResponse s).dbuf = s.dbuf := rfl
@[simp] theorem takeResponse_dlen : (takeResponse s).dlen = s.dlen := rfl
@[simp] theorem takeResponse_ref : (takeResponse s).ref = s.ref := rfl
@[simp] theorem takeResponse_rlen : (takeResponse s).rlen = s.rlen := rfl
@[simp] theorem takeResponse_syn : (takeResponse s).syn = s.syn := rfl
@[simp] theorem takeResponse_disc : (takeResponse s).disc = s.disc := rfl
@[simp] theorem takeResponse_sigma : (takeResponse s).sigma = s.sigma := rfl
@[simp] theorem takeResponse_osig : (takeResponse s).osig = s.osig := rfl
@[simp] theorem takeResponse_l : (takeResponse s).l = s.l := rfl
@[simp] theorem takeResponse_mval : (takeResponse s).mval = s.mval := rfl
@[simp] theorem takeResponse_b : (takeResponse s).b = s.b := rfl
@[simp] theorem takeResponse_flipcnt : (takeResponse s).flipcnt = s.flipcnt := rfl
@[simp] theorem takeResponse_nodisc : (takeResponse s).nodisc = s.nodisc := rfl
@[simp] theorem takeResponse_err : (takeResponse s).err = s.err := rfl
@[simp] theorem takeResponse_ecode : (takeResponse s).ecode = s.ecode := rfl
@[simp] theorem takeResponse_inputs : (takeResponse s).inputs = s.inputs := rfl
@[simp] theorem takeResponse_rsp : (takeResponse s).rsp = none := rfl
@[simp] theorem takeResponse_taken : (takeResponse s).taken = s.taken ++ s.rsp.toList := rfl
@[simp] theorem takeResponse_resets : (takeResponse s).resets = s.resets := rfl

@[simp] theorem resetEvent_par : (resetEvent s).par = s.par := rfl
@[simp] theorem resetEvent_tables : (resetEvent s).tables = (State.afterReset s.par (s.resets + 1)).tables := rfl
@[simp] theorem resetEvent_tv : (resetEvent s).tv = false := rfl
@[simp] theorem resetEvent_t : (resetEvent s).t = 0 := rfl
@[simp] theorem resetEvent_dbuf : (resetEvent s).dbuf = [] := rfl
@[simp] theorem resetEvent_dlen : (resetEvent s).dlen = 0 := rfl
@[simp] theorem resetEvent_ref : (resetEvent s).ref = [] := rfl
@[simp] theorem resetEvent_rlen : (resetEvent s).rlen = 0 := rfl
@[simp] theorem resetEvent_syn : (resetEvent s).syn = List.replicate (2 * s.par.tmax + 1) 0 := rfl
@[simp] theorem resetEvent_disc : (resetEvent s).disc = List.replicate (2 * s.par.tmax + 1) 0 := rfl
@[simp] theorem resetEvent_sigma : (resetEvent s).sigma = unitVector (s.par.tmax + 1) := rfl
@[simp] theorem resetEvent_osig : (resetEvent s).osig = unitVector (s.par.tmax + 1) := rfl
@[simp] theorem resetEvent_l : (resetEvent s).l = 0 := rfl
@[simp] theorem resetEvent_mval : (resetEvent s).mval = 1 := rfl
@[simp] theorem resetEvent_b : (resetEvent s).b = 1 := rfl
@[simp] theorem resetEvent_flipcnt : (resetEvent s).flipcnt = 0 := rfl
@[simp] theorem resetEvent_nodisc : (resetEvent s).nodisc = false := rfl
@[simp] theorem resetEvent_err : (resetEvent s).err = false := rfl
@[simp] theorem resetEvent_ecode : (resetEvent s).ecode = 0 := rfl
@[simp] theorem resetEvent_inputs : (resetEvent s).inputs = s.inputs := rfl
@[simp] theorem resetEvent_rsp : (resetEvent s).rsp = none := rfl
@[simp] theorem resetEvent_taken : (resetEvent s).taken = s.taken := rfl
@[simp] theorem resetEvent_resets : (resetEvent s).resets = s.resets + 1 := rfl

@[simp] theorem construct_par (c : Byte) : (construct c s).par = s.par := by unfold construct; rfl
@[simp] theorem construct_tables (c : Byte) : (construct c s).tables = buildTables s.tables := by unfold construct; rfl
@[simp] theorem construct_tv (c : Byte) : (construct c s).tv = true := by unfold construct; rfl
@[simp] theorem construct_t (c : Byte) : (construct c s).t = c := by unfold construct; rfl
@[simp] theorem construct_dbuf (c : Byte) : (construct c s).dbuf = s.dbuf := by unfold construct; rfl
@[simp] theorem construct_dlen (c : Byte) : (construct c s).dlen = s.dlen := by unfold construct; rfl
@[simp] theorem construct_ref (c : Byte) : (construct c s).ref = s.ref := by unfold construct; rfl
@[simp] theorem construct_rlen (c : Byte) : (construct c s).rlen = s.rlen := by unfold construct; rfl
@[simp] theorem construct_syn (c : Byte) : (construct c s).syn = List.replicate (2 * s.par.tmax + 1) 0 := by unfold construct; rfl
@[simp] theorem construct_disc (c : Byte) : (construct c s).disc = List.replicate (2 * s.par.tmax + 1) 0 := by unfold construct; rfl
@[simp] theorem construct_sigma (c : Byte) : (construct c s).sigma = unitVector (s.par.tmax + 1) := by unfold construct; rfl
@[simp] theorem construct_osig (c : Byte) : (construct c s).osig = unitVector (s.par.tmax + 1) := by unfold construct; rfl
@[simp] theorem construct_l (c : Byte) : (construct c s).l = 0 := by unfold construct; rfl
@[simp] theorem construct_mval (c : Byte) : (construct c s).mval = 1 := by unfold construct; rfl
@[simp] theorem construct_b (c : Byte) : (construct c s).b = 1 := by unfold construct; rfl
@[simp] theorem construct_flipcnt (c : Byte) : (construct c s).flipcnt = 0 := by unfold construct; rfl
@[simp] theorem construct_nodisc (c : Byte) : (construct c s).nodisc = false := by unfold construct; rfl
@[simp] theorem construct_err (c : Byte) : (construct c s).err = s.err := by unfold construct; rfl
@[simp] theorem construct_ecode (c : Byte) : (construct c s).ecode = s.ecode := by unfold construct; rfl
@[simp] theorem construct_inputs (c : Byte) : (construct c s).inputs = s.inputs := by unfold construct; rfl
@[simp] theorem construct_rsp (c : Byte) : (construct c s).rsp = s.rsp := by unfold construct; rfl
@[simp] theorem construct_taken (c : Byte) : (construct c s).taken = s.taken := by unfold construct; rfl
@[simp] theorem construct_resets (c : Byte) : (construct c s).resets = s.resets := by unfold construct; rfl

@[simp] theorem computeDiscrepancy_par : (computeDiscrepancy s).par = s.par := rfl
@[simp] theorem computeDiscrepancy_tables : (computeDiscrepancy s).tables = s.tables := rfl
@[simp] theorem computeDiscrepancy_tv : (computeDiscrepancy s).tv = s.tv := rfl
@[simp] theorem computeDiscrepancy_t : (computeDiscrepancy s).t = s.t := rfl
@[simp] theorem computeDiscrepancy_dbuf : (computeDiscrepancy s).dbuf = s.dbuf := rfl
@[simp] theorem computeDiscrepancy_dlen : (computeDiscrepancy s).dlen = s.dlen := rfl
@[simp] theorem computeDiscrepancy_ref : (computeDiscrepancy s).ref = s.ref := rfl
@[simp] theorem computeDiscrepancy_rlen : (computeDiscrepancy s).rlen = s.rlen := rfl
@[simp] theorem computeDiscrepancy_syn : (computeDiscrepancy s).syn = s.syn := rfl
@[simp] theorem computeDiscrepancy_disc : (computeDiscrepancy s).disc = discrepancies s := rfl
@[simp] theorem computeDiscrepancy_sigma : (computeDiscrepancy s).sigma = s.sigma := rfl
@[simp] theorem computeDiscrepancy_osig : (computeDiscrepancy s).osig = s.osig := rfl
@[simp] theorem computeDiscrepancy_l : (computeDiscrepancy s).l = s.l := rfl
@[simp] theorem computeDiscrepancy_mval : (computeDiscrepancy s).mval = s.mval := rfl
@[simp] theorem computeDiscrepancy_b : (computeDiscrepancy s).b = s.b := rfl
@[simp] theorem computeDiscrepancy_flipcnt : (computeDiscrepancy s).flipcnt = s.flipcnt := rfl
@[simp] theorem computeDiscrepancy_nodisc : (computeDiscrepancy s).nodisc = zeroDiscrepancy s.t.toNat (discrepancies s) := rfl
@[simp] theorem computeDiscrepancy_err : (computeDiscrepancy s).err = s.err := rfl
@[simp] theorem computeDiscrepancy_ecode : (computeDiscrepancy s).ecode = s.ecode := rfl
@[simp] theorem computeDiscrepancy_inputs : (computeDiscrepancy s).inputs = s.inputs := rfl
@[simp] theorem computeDiscrepancy_rsp : (computeDiscrepancy s).rsp = s.rsp := rfl
@[simp] theorem computeDiscrepancy_taken : (computeDiscrepancy s).taken = s.taken := rfl
@[simp] theorem computeDiscrepancy_resets : (computeDiscrepancy s).resets = s.resets := rfl

@[simp] theorem withRecurrence_par (q : Recurrence) : (withRecurrence q s).par = s.par := rfl
@[simp] theorem withRecurrence_tables (q : Recurrence) : (withRecurrence q s).tables = s.tables := rfl
@[simp] theorem withRecurrence_tv (q : Recurrence) : (withRecurrence q s).tv = s.tv := rfl
@[simp] theorem withRecurrence_t (q : Recurrence) : (withRecurrence q s).t = s.t := rfl
@[simp] theorem withRecurrence_dbuf (q : Recurrence) : (withRecurrence q s).dbuf = s.dbuf := rfl
@[simp] theorem withRecurrence_dlen (q : Recurrence) : (withRecurrence q s).dlen = s.dlen := rfl
@[simp] theorem withRecurrence_ref (q : Recurrence) : (withRecurrence q s).ref = s.ref := rfl
@[simp] theorem withRecurrence_rlen (q : Recurrence) : (withRecurrence q s).rlen = s.rlen := rfl
@[simp] theorem withRecurrence_syn (q : Recurrence) : (withRecurrence q s).syn = s.syn := rfl
@[simp] theorem withRecurrence_disc (q : Recurrence) : (withRecurrence q s).disc = s.disc := rfl
@[simp] theorem withRecurrence_sigma (q : Recurrence) : (withRecurrence q s).sigma = q.sigma := rfl
@[simp] theorem withRecurrence_osig (q : Recurrence) : (withRecurrence q s).osig = q.osig := rfl
@[simp] theorem withRecurrence_l (q : Recurrence) : (withRecurrence q s).l = BitVec.ofNat 8 q.l := rfl
@[simp] theorem withRecurrence_mval (q : Recurrence) : (withRecurrence q s).mval = BitVec.ofNat 8 q.mval := rfl
@[simp] theorem withRecurrence_b (q : Recurrence) : (withRecurrence q s).b = q.b := rfl
@[simp] theorem withRecurrence_flipcnt (q : Recurrence) : (withRecurrence q s).flipcnt = s.flipcnt := rfl
@[simp] theorem withRecurrence_nodisc (q : Recurrence) : (withRecurrence q s).nodisc = s.nodisc := rfl
@[simp] theorem withRecurrence_err (q : Recurrence) : (withRecurrence q s).err = s.err := rfl
@[simp] theorem withRecurrence_ecode (q : Recurrence) : (withRecurrence q s).ecode = s.ecode := rfl
@[simp] theorem withRecurrence_inputs (q : Recurrence) : (withRecurrence q s).inputs = s.inputs := rfl
@[simp] theorem withRecurrence_rsp (q : Recurrence) : (withRecurrence q s).rsp = s.rsp := rfl
@[simp] theorem withRecurrence_taken (q : Recurrence) : (withRecurrence q s).taken = s.taken := rfl
@[simp] theorem withRecurrence_resets (q : Recurrence) : (withRecurrence q s).resets = s.resets := rfl

/-! ### computeSyndromes writes SYN only -/

@[simp] theorem computeSyndromes_par : (computeSyndromes s).par = s.par := rfl
@[simp] theorem computeSyndromes_tables : (computeSyndromes s).tables = s.tables := rfl
@[simp] theorem computeSyndromes_tv : (computeSyndromes s).tv = s.tv := rfl
@[simp] theorem computeSyndromes_t : (computeSyndromes s).t = s.t := rfl
@[simp] theorem computeSyndromes_dbuf : (computeSyndromes s).dbuf = s.dbuf := rfl
@[simp] theorem computeSyndromes_dlen : (computeSyndromes s).dlen = s.dlen := rfl
@[simp] theorem computeSyndromes_ref : (computeSyndromes s).ref = s.ref := rfl
@[simp] theorem computeSyndromes_rlen : (computeSyndromes s).rlen = s.rlen := rfl
@[simp] theorem computeSyndromes_disc : (computeSyndromes s).disc = s.disc := rfl
@[simp] theorem computeSyndromes_sigma : (computeSyndromes s).sigma = s.sigma := rfl
@[simp] theorem computeSyndromes_osig : (computeSyndromes s).osig = s.osig := rfl
@[simp] theorem computeSyndromes_l : (computeSyndromes s).l = s.l := rfl
@[simp] theorem computeSyndromes_mval : (computeSyndromes s).mval = s.mval := rfl
@[simp] theorem computeSyndromes_b : (computeSyndromes s).b = s.b := rfl
@[simp] theorem computeSyndromes_flipcnt : (computeSyndromes s).flipcnt = s.flipcnt := rfl
@[simp] theorem computeSyndromes_nodisc : (computeSyndromes s).nodisc = s.nodisc := rfl
@[simp] theorem computeSyndromes_err : (computeSyndromes s).err = s.err := rfl
@[simp] theorem computeSyndromes_ecode : (computeSyndromes s).ecode = s.ecode := rfl
@[simp] theorem computeSyndromes_inputs : (computeSyndromes s).inputs = s.inputs := rfl
@[simp] theorem computeSyndromes_rsp : (computeSyndromes s).rsp = s.rsp := rfl
@[simp] theorem computeSyndromes_taken : (computeSyndromes s).taken = s.taken := rfl
@[simp] theorem computeSyndromes_resets : (computeSyndromes s).resets = s.resets := rfl

end Sys2Proof.Machine
end

