-- ==== Sys2Proof/Laws/Memory.lean ====
section
/-! SUPPORT. The laws of the memories: a read after a write, the canonical form, and the bits of the data stream
(20_memory.md R62, R63, R71; log 4). -/

namespace Sys2Proof.Machine

/-! ### The list of written bytes -/

@[simp] theorem read?_write_same (m : Memory) (a : Nat) (v : Byte) : (m.write a v).read? a = some v := by
  induction m with
  | nil => simp [Memory.write, Memory.read?]
  | cons c rest ih =>
    obtain ⟨b, w⟩ := c
    simp only [Memory.write]
    split
    · simp [Memory.read?]
    · split
      · simp [Memory.read?]
      · rename_i hlt hne
        simp [Memory.read?, ih, Ne.symm hne]

@[simp] theorem read?_write_other (m : Memory) (a k : Nat) (v : Byte) (h : k ≠ a) :
    (m.write a v).read? k = m.read? k := by
  induction m with
  | nil => simp [Memory.write, Memory.read?, Ne.symm h]
  | cons c rest ih =>
    obtain ⟨b, w⟩ := c
    simp only [Memory.write]
    split
    · simp [Memory.read?, Ne.symm h]
    · split
      · rename_i heq
        subst heq
        simp [Memory.read?, Ne.symm h]
      · simp [Memory.read?, ih]

/-- The addresses of a memory after a write are those before it and the one written. -/
theorem mem_addresses_write (m : Memory) (a k : Nat) (v : Byte) :
    k ∈ (m.write a v).map Prod.fst ↔ k = a ∨ k ∈ m.map Prod.fst := by
  induction m with
  | nil => simp [Memory.write]
  | cons c rest ih =>
    obtain ⟨b, w⟩ := c
    simp only [Memory.write]
    split
    · simp
    · split
      · rename_i heq
        simp [heq]
      · simp only [List.map_cons, List.mem_cons, ih]
        tauto

/-- A write keeps the canonical form. -/
theorem wf_write (m : Memory) (a : Nat) (v : Byte) (h : m.wf) : (m.write a v).wf := by
  induction m with
  | nil => simp [Memory.write, Memory.wf]
  | cons c rest ih =>
    obtain ⟨b, w⟩ := c
    simp only [Memory.wf, List.map_cons, List.pairwise_cons] at h ih
    obtain ⟨hb, hrest⟩ := h
    simp only [Memory.write]
    split
    · rename_i hlt
      simp only [Memory.wf, List.map_cons, List.pairwise_cons, List.mem_cons]
      refine ⟨?_, hb, hrest⟩
      rintro k (rfl | hk)
      · exact hlt
      · exact Nat.lt_trans hlt (hb k hk)
    · split
      · rename_i heq
        subst heq
        simpa only [Memory.wf, List.map_cons, List.pairwise_cons] using ⟨hb, hrest⟩
      · simp only [Memory.wf, List.map_cons, List.pairwise_cons]
        refine ⟨fun k hk => ?_, ih hrest⟩
        rcases (mem_addresses_write rest a k v).1 hk with rfl | hk'
        · omega
        · exact hb k hk'

/-- The empty memory of reset is in canonical form. -/
theorem wf_nil : Memory.wf [] := List.Pairwise.nil

theorem reset_dbuf_wf : State.reset.dbuf.wf := wf_nil

theorem reset_ref_wf : State.reset.ref.wf := wf_nil

/-! ### DBUF and REF -/

theorem readDbuf_writeDbuf (s : State) (k a : Nat) (v : Byte) :
    readDbuf (writeDbuf a v s) k = if k = a then v else readDbuf s k := by
  unfold readDbuf writeDbuf
  by_cases h : k = a
  · subst h; simp
  · simp [h]

theorem readRef_writeRef (s : State) (k a : Nat) (v : Byte) :
    readRef (writeRef a v s) k = if k = a then v else readRef s k := by
  unfold readRef writeRef
  by_cases h : k = a
  · subst h; simp
  · simp [h]

/-- `readDbuf` looks at DBUF and the number of the reset only. -/
theorem readDbuf_congr {s t : State} (hm : t.dbuf = s.dbuf) (hr : t.resets = s.resets) (k : Nat) :
    readDbuf t k = readDbuf s k := by
  simp only [readDbuf, hm, hr]

/-- `readRef` looks at REF and the number of the reset only. -/
theorem readRef_congr {s t : State} (hm : t.ref = s.ref) (hr : t.resets = s.resets) (k : Nat) :
    readRef t k = readRef s k := by
  simp only [readRef, hm, hr]

/-- A flip at position i changes exactly the bit that position i reads (R63). -/
theorem bitAt_flipBit (s : State) (i p : Nat) : bitAt (flipBit s i) p = (bitAt s p != decide (p = i)) := by
  have hmask : ∀ j < 8, ∀ k < 8, ((0x80 : Byte) >>> j).getLsbD (7 - k) = decide (k = j) := by decide
  unfold bitAt flipBit
  rw [readDbuf_writeDbuf]
  have hj := Nat.mod_lt i (by decide : 8 > 0)
  have hk := Nat.mod_lt p (by decide : 8 > 0)
  by_cases h : p / 8 = i / 8
  · rw [if_pos h, BitVec.getLsbD_xor, hmask _ hj _ hk, h]
    by_cases hm : p % 8 = i % 8
    · have : p = i := by omega
      simp [this]
    · have : p ≠ i := fun e => hm (by rw [e])
      simp [hm, this]
  · have : p ≠ i := fun e => h (by rw [e])
    simp [h, this]

/-- A flip writes DBUF only. -/
theorem flipBit_eq (s : State) (i : Nat) : flipBit s i = { s with dbuf := (flipBit s i).dbuf } := rfl

/-- So does a sequence of flips. -/
theorem foldl_flipBit_eq (ps : List Nat) (s : State) :
    ps.foldl flipBit s = { s with dbuf := (ps.foldl flipBit s).dbuf } := by
  induction ps generalizing s with
  | nil => rfl
  | cons p ps ih => rw [List.foldl_cons, ih]; rfl

/-- Flips keep the canonical form. -/
theorem wf_foldl_flipBit (ps : List Nat) (s : State) (h : s.dbuf.wf) : (ps.foldl flipBit s).dbuf.wf := by
  induction ps generalizing s with
  | nil => exact h
  | cons p ps ih => exact ih _ (wf_write _ _ _ h)

end Sys2Proof.Machine
end

