-- ==== Sys2Proof/Laws/Ops.lean ====
section
/-! SUPPORT. One lemma for each shared operation that says once everything it can do: the checks before a command
executes, the accumulating loops, the element reads and writes, the register view, and the port. -/

namespace Sys2Proof.Machine

/-! ### The checks (R202): a command executes or is rejected, and nothing else happens -/

theorem whenReady_of_tv {s : State} (h : s.tv = true) (done : State) : whenReady s done = .next done := by
  simp [whenReady, h]

theorem whenReady_of_not_tv {s : State} (h : s.tv = false) (done : State) :
    whenReady s done = .next (reject .notInit s) := by
  simp [whenReady, h]

theorem whenReady_cases {s done t : State} (h : whenReady s done = .next t) :
    (s.tv = true ∧ t = done) ∨ (s.tv = false ∧ t = reject .notInit s) := by
  cases htv : s.tv with
  | true => rw [whenReady_of_tv htv] at h; cases h; exact .inl ⟨rfl, rfl⟩
  | false => rw [whenReady_of_not_tv htv] at h; cases h; exact .inr ⟨rfl, rfl⟩

theorem whenOperand_of_ok {ok : Bool} (h : ok = true) (c : Cause) (s done : State) :
    whenOperand ok c s done = .next done := by
  simp [whenOperand, h]

theorem whenOperand_of_not_ok {ok : Bool} (h : ok = false) (c : Cause) (s done : State) :
    whenOperand ok c s done = .next (reject c s) := by
  simp [whenOperand, h]

theorem whenOperand_cases {ok : Bool} {c : Cause} {s done t : State} (h : whenOperand ok c s done = .next t) :
    (ok = true ∧ t = done) ∨ (ok = false ∧ t = reject c s) := by
  cases ok with
  | true => rw [whenOperand_of_ok rfl] at h; cases h; exact .inl ⟨rfl, rfl⟩
  | false => rw [whenOperand_of_not_ok rfl] at h; cases h; exact .inr ⟨rfl, rfl⟩

/-- The registers R42 numbers are exactly 0..10. -/
theorem regView_isSome (s : State) (reg : Byte) : (regView s reg).isSome = decide (reg.toNat ≤ 10) := by
  unfold regView
  split <;> simp_all
  omega

/-! ### Vectors and loops -/

@[simp] theorem xorSum_zero (f : Nat → Byte) : xorSum 0 f = 0 := rfl

theorem xorSum_succ (n : Nat) (f : Nat → Byte) : xorSum (n + 1) f = xorSum n f ^^^ f n := by
  simp [xorSum, List.range_succ]

theorem xorSum_congr {n : Nat} {f g : Nat → Byte} (h : ∀ i < n, f i = g i) : xorSum n f = xorSum n g := by
  induction n with
  | zero => rfl
  | succ n ih =>
    rw [xorSum_succ, xorSum_succ, ih fun i hi => h i (Nat.lt_succ_of_lt hi), h n (Nat.lt_succ_self n)]

theorem xorSum_xor (n : Nat) (f g : Nat → Byte) :
    xorSum n (fun i => f i ^^^ g i) = xorSum n f ^^^ xorSum n g := by
  induction n with
  | zero => simp
  | succ n ih => rw [xorSum_succ, xorSum_succ, xorSum_succ, ih]; ac_rfl

@[simp] theorem length_setElem (m : List Byte) (i : Nat) (v : Byte) : (setElem m i v).length = m.length := by
  simp [setElem]

theorem elem_setElem (m : List Byte) (i k : Nat) (v : Byte) (hi : i < m.length) :
    elem (setElem m i v) k = if k = i then v else elem m k := by
  unfold elem setElem
  by_cases h : k = i
  · subst h; simp [List.getD, hi]
  · simp [List.getD, List.getElem?_set_ne (Ne.symm h), h]

theorem elem_eq_zero_of_length_le (m : List Byte) (k : Nat) (h : m.length ≤ k) : elem m k = 0 := by
  simp [elem, List.getD, List.getElem?_eq_none h]

theorem elem_replicate_zero (n k : Nat) : elem (List.replicate n 0) k = 0 := by
  simp only [elem, List.getD, List.getElem?_replicate]
  split <;> rfl

@[simp] theorem length_unitVector (n : Nat) : (unitVector n).length = n := by simp [unitVector]

theorem elem_unitVector (n k : Nat) : elem (unitVector (n + 1)) k = if k = 0 then 1 else 0 := by
  have h := elem_setElem (List.replicate (n + 1) 0) 0 k 1 (by simp)
  rw [elem_replicate_zero] at h
  exact h

/-- An element of a vector given index by index. -/
theorem elem_map_range (n k : Nat) (f : Nat → Byte) :
    elem ((List.range n).map f) k = if k < n then f k else 0 := by
  unfold elem
  by_cases h : k < n
  · simp [List.getD, h]
  · simp [List.getD, h]

@[simp] theorem length_computeSyndromes (s : State) : (computeSyndromes s).syn.length = 2 * s.par.tmax + 1 := by
  simp [computeSyndromes]

@[simp] theorem length_discrepancies (s : State) : (discrepancies s).length = 2 * s.par.tmax + 1 := by
  simp [discrepancies]

/-! ### The engines' sizes -/

theorem length_updateSigma (tb : Tables) (t : Nat) (scale : Byte) (q : Recurrence) :
    (updateSigma tb t scale q).length = q.sigma.length := by
  unfold updateSigma
  generalize List.range (t + 1 - q.mval) = is
  suffices h : ∀ sg : List Byte,
      (is.foldl (fun sg i => setElem sg (i + q.mval)
        (elem sg (i + q.mval) ^^^ gfmul tb scale (elem q.osig i))) sg).length = sg.length from h q.sigma
  induction is with
  | nil => intro sg; rfl
  | cons i is ih => intro sg; rw [List.foldl_cons, ih, length_setElem]

/-- What a step of the recurrence does: a zero discrepancy, an update with a change of length, or one without (R140). -/
theorem recurrenceStep_cases (tb : Tables) (t : Nat) (disc : List Byte) (q : Recurrence) (r : Nat) :
    (stepDiscrepancy tb t disc q r = 0 ∧
      recurrenceStep tb t disc q r = { q with mval := q.mval + 1 }) ∨
    (stepDiscrepancy tb t disc q r ≠ 0 ∧ 2 * q.l ≤ r - 1 ∧
      recurrenceStep tb t disc q r =
        { sigma := updateSigma tb t (gfmul tb (stepDiscrepancy tb t disc q r) (gfinv tb q.b)) q
          osig := snapshotOver t q.sigma q.osig, l := r - q.l, mval := 1
          b := stepDiscrepancy tb t disc q r }) ∨
    (stepDiscrepancy tb t disc q r ≠ 0 ∧ ¬ 2 * q.l ≤ r - 1 ∧
      recurrenceStep tb t disc q r =
        { q with
          sigma := updateSigma tb t (gfmul tb (stepDiscrepancy tb t disc q r) (gfinv tb q.b)) q
          mval := q.mval + 1 }) := by
  unfold recurrenceStep
  by_cases hd : stepDiscrepancy tb t disc q r = 0
  · exact .inl ⟨hd, if_pos hd⟩
  · by_cases hl : 2 * q.l ≤ r - 1
    · exact .inr (.inl ⟨hd, hl, (if_neg hd).trans (if_pos hl)⟩)
    · exact .inr (.inr ⟨hd, hl, (if_neg hd).trans (if_neg hl)⟩)

@[simp] theorem recurrenceAfter_zero (tb : Tables) (t : Nat) (disc : List Byte) (len : Nat) :
    recurrenceAfter tb t disc len 0 = Recurrence.start len := rfl

theorem recurrenceAfter_succ (tb : Tables) (t : Nat) (disc : List Byte) (len n : Nat) :
    recurrenceAfter tb t disc len (n + 1) =
      recurrenceStep tb t disc (recurrenceAfter tb t disc len n) (n + 1) := by
  simp [recurrenceAfter, List.range_succ]

/-! ### The Chien search -/

/-- The search writes DBUF and FLIPCNT only (R152). -/
theorem runChien_eq (s : State) :
    runChien s = { s with dbuf := (runChien s).dbuf, flipcnt := (runChien s).flipcnt } := by
  unfold runChien
  rw [foldl_flipBit_eq]

theorem mem_markedPositions (s : State) (i : Nat) :
    i ∈ markedPositions s ↔ i < min Config.n (8 * s.dlen.toNat) ∧ locatorAt s i = 0 := by
  simp only [markedPositions, List.mem_filter, List.mem_range, Bool.and_eq_true, decide_eq_true_eq]
  constructor
  · rintro ⟨hi, hz, -⟩; exact ⟨hi, hz⟩
  · rintro ⟨hi, hz⟩; exact ⟨hi, hz, lt_of_lt_of_le hi (Nat.min_le_right _ _)⟩

/-! ### The port -/

/-- The port step by the host's next action (R232, R233). -/
theorem step_command_none {s : State} {w : Word} {rest : List HostAction}
    (hi : s.inputs = .command w :: rest) (hr : s.rsp = none) : step s = acceptWord w (advanceTo rest s) := by
  simp [step, portStep, hi, offerWord, hr]

theorem step_command_some {s : State} {w r : Word} {rest : List HostAction}
    (hi : s.inputs = .command w :: rest) (hr : s.rsp = some r) : step s = .fault .portStalled := by
  simp [step, portStep, hi, offerWord, hr]

theorem acceptWord_ok {w : Word} {i : Instr} (h : decode w = .ok i) (s : State) : acceptWord w s = exec i s := by
  simp [acceptWord, h]

theorem acceptWord_error {w : Word} {e : DecodeError} (h : decode w = .error e) (s : State) :
    acceptWord w s = .next (reject .illegal s) := by
  simp [acceptWord, h]

end Sys2Proof.Machine
end

