-- ==== Sys2Proof/Laws/PerInstr.lean ====
section
/-! SUPPORT. Statements made instruction by instruction. EncodedFixedBits: the encoded word of an instruction has, under
the mask of its format, exactly its opcode's bits, and the opcode the decoder reads from it is the instruction's
(30_encoding.md R81, R83). -/

namespace Sys2Proof.Laws.EncodedFixedBits

/-- The encoded word of `i` meets the well-formedness test of R81 and carries the opcode of `i`. -/
def Statement (i : Instr) : Prop :=
  encode i &&& i.opcode.format.mask = i.opcode.match32 ∧ Opcode.ofBits (opcOf (encode i)) = some i.opcode

theorem opcode_read (i : Instr) : Opcode.ofBits (opcOf (encode i)) = some i.opcode := by
  unfold encode
  rw [opcOf_fieldsWord, ofBits_bits]

theorem nop : Statement .nop :=
  ⟨fixed_n .nop rfl, opcode_read _⟩

theorem init (t : Byte) : Statement (.init t) :=
  ⟨fixed_y .init rfl t, opcode_read _⟩

theorem clrerr : Statement .clrerr :=
  ⟨fixed_n .clrerr rfl, opcode_read _⟩

theorem gfmul (a : Byte) (b : Byte) : Statement (.gfmul a b) :=
  ⟨fixed_xy8 .gfmul rfl a b, opcode_read _⟩

theorem gfinv (a : Byte) : Statement (.gfinv a) :=
  ⟨fixed_y .gfinv rfl a, opcode_read _⟩

theorem gflog (a : Byte) : Statement (.gflog a) :=
  ⟨fixed_y .gflog rfl a, opcode_read _⟩

theorem gfexp (k : Byte) : Statement (.gfexp k) :=
  ⟨fixed_y .gfexp rfl k, opcode_read _⟩

theorem synd : Statement .synd :=
  ⟨fixed_n .synd rfl, opcode_read _⟩

theorem disc : Statement .disc :=
  ⟨fixed_n .disc rfl, opcode_read _⟩

theorem bma : Statement .bma :=
  ⟨fixed_n .bma rfl, opcode_read _⟩

theorem chien : Statement .chien :=
  ⟨fixed_n .chien rfl, opcode_read _⟩

theorem recover : Statement .recover :=
  ⟨fixed_n .recover rfl, opcode_read _⟩

theorem wrdata (addr : Half) (byte : Byte) : Statement (.wrdata addr byte) :=
  ⟨fixed_xy .wrdata rfl addr byte, opcode_read _⟩

theorem rddata (addr : Half) : Statement (.rddata addr) :=
  ⟨fixed_x .rddata rfl addr, opcode_read _⟩

theorem setdlen (len : Half) : Statement (.setdlen len) :=
  ⟨fixed_x .setdlen rfl len, opcode_read _⟩

theorem wrref (idx : Half) (v : Byte) : Statement (.wrref idx v) :=
  ⟨fixed_xy .wrref rfl idx v, opcode_read _⟩

theorem rdref (idx : Half) : Statement (.rdref idx) :=
  ⟨fixed_x .rdref rfl idx, opcode_read _⟩

theorem setrlen (len : Half) : Statement (.setrlen len) :=
  ⟨fixed_x .setrlen rfl len, opcode_read _⟩

theorem rdsyn (idx : Half) : Statement (.rdsyn idx) :=
  ⟨fixed_x .rdsyn rfl idx, opcode_read _⟩

theorem rddisc (idx : Half) : Statement (.rddisc idx) :=
  ⟨fixed_x .rddisc rfl idx, opcode_read _⟩

theorem rdsig (idx : Half) : Statement (.rdsig idx) :=
  ⟨fixed_x .rdsig rfl idx, opcode_read _⟩

theorem rdosig (idx : Half) : Statement (.rdosig idx) :=
  ⟨fixed_x .rdosig rfl idx, opcode_read _⟩

theorem rdreg (reg : Byte) : Statement (.rdreg reg) :=
  ⟨fixed_y .rdreg rfl reg, opcode_read _⟩

end Sys2Proof.Laws.EncodedFixedBits
end

