-- ==== Sys2Proof/Laws/Stated.lean ====
section
/-! SUPPORT. Bridges between the operations of the model and the forms the statements write them in. -/

namespace Sys2Proof.Machine

open Sys2Proof.Stated

theorem reject_eq_rejected (c : Cause) (s : State) : reject c s = rejected c.code s := by
  cases c <;> rfl

theorem responseWord_eq_executed (v : Half) : responseWord false 0 v = executed v := by
  simp [responseWord, executed]

theorem respond_eq (v : Half) (s : State) : respond v s = { s with rsp := some (executed v) } := by
  rw [respond, responseWord_eq_executed]

theorem entry_eq_elem (m : List Byte) (i : Nat) : entry m i = elem m i := rfl

theorem bit_eq_bitAt (s : State) (p : Nat) : bit s p = bitAt s p := rfl

theorem mul_eq_gfmul (tb : Tables) (a b : Byte) : mul tb a b = gfmul tb a b := rfl

theorem inv_eq_gfinv (tb : Tables) (a : Byte) : inv tb a = gfinv tb a := rfl

theorem xorUpTo_eq_xorSum (n : Nat) (f : Nat → Byte) : xorUpTo n f = xorSum n f := by
  induction n with
  | zero => rfl
  | succ n ih => rw [xorSum_succ, ← ih]; rfl

theorem syndromeOf_eq_syndrome (s : State) (j : Nat) : syndromeOf s j = syndrome s j :=
  xorUpTo_eq_xorSum _ _

theorem comparedUpTo_eq_lastCompared (s : State) : comparedUpTo s = lastCompared s := by
  unfold comparedUpTo lastCompared
  by_cases h : s.rlen = 0
  · simp [h]
  · have h' : s.rlen.toNat ≠ 0 := fun e => h (BitVec.eq_of_toNat_eq (by simpa using e))
    rw [if_neg h, if_neg h']

theorem chienExp_eq_chienExponent (e : ChienExp) (j i : Nat) : chienExp e j i = chienExponent e j i := by
  cases e <;> rfl

theorem evaluation_eq_locatorAt (s : State) (i : Nat) : evaluation s i = locatorAt s i := by
  unfold evaluation locatorAt
  rw [xorUpTo_eq_xorSum]
  exact xorSum_congr fun j _ => by rw [mul_eq_gfmul, entry_eq_elem, entry_eq_elem, chienExp_eq_chienExponent]

theorem toNat_statusView (s : State) :
    (statusView s).toNat = s.tv.toNat + 2 * s.nodisc.toNat + 4 * s.err.toNat + 16 * s.ecode.toNat := by
  have h : ∀ (a b c : Bool) (e : BitVec 4),
      (e.setWidth 16 <<< 4 ||| (BitVec.ofBool c).setWidth 16 <<< 2 ||| (BitVec.ofBool b).setWidth 16 <<< 1 |||
        (BitVec.ofBool a).setWidth 16 : Half).toNat = a.toNat + 2 * b.toNat + 4 * c.toNat + 16 * e.toNat := by
    decide +kernel
  exact h _ _ _ _

end Sys2Proof.Machine
end

