-- ==== Sys2Proof/Tests/Slice0.lean ====
section
/-! SUPPORT. Small tests, each with its source in spec/, the smoke tests of WellFormed, the words written out from the
encoding tables, and one witness per statement that has hypotheses. -/

namespace Sys2Proof.Tests

open Sys2Proof.Machine Sys2Proof.Stated

/-! ### WellFormed refuses what is ill formed (R9, R10, R89, R90) -/

theorem test_wf_operand_too_wide : AsmLine.wf (.command .init [256]) = false := by decide
theorem test_wf_operand_count : AsmLine.wf (.command .nop [1]) = false := by decide
theorem test_wf_operand_missing : AsmLine.wf (.command .gfmul [2]) = false := by decide
theorem test_wf_word_too_wide : AsmLine.wf (.word 0x100000000) = false := by decide
theorem test_wf_ldbuf_no_value : AsmLine.wf (.ldbuf 0 []) = false := by decide
theorem test_wf_ldbuf_past_the_end : AsmLine.wf (.ldbuf 0xFFFF [1, 2]) = false := by decide
theorem test_wf_ldref_value_too_wide : AsmLine.wf (.ldref 0 [0x100]) = false := by decide
theorem test_wf_setbuf_no_value : AsmLine.wf (.setbuf []) = false := by decide
theorem test_wf_accepts : AsmLine.wf (.ldbuf 0xFFFE [1, 2]) = true := by decide
theorem test_params_refused :
    Params.ofChoice 0 32 .reciprocal = none ∧ Params.ofChoice 128 32 .reciprocal = none ∧
    Params.ofChoice 4 0 .reciprocal = none ∧ Params.ofChoice 4 65536 .literal = none := by decide
theorem test_params_accepted : (Params.ofChoice 127 65535 .literal).isSome = true := by decide

/-! ### Words written out from R80, R81, R83, one per constructor: OPC, RSV, X, Y -/

theorem test_decode_nop : decode 0b000000_00_0000000000000000_00000000 = .ok .nop := by decide
theorem test_decode_init : decode 0b000001_00_0000000000000000_00000010 = .ok (.init 2) := by decide
theorem test_decode_clrerr : decode 0b000010_00_0000000000000000_00000000 = .ok .clrerr := by decide
theorem test_decode_gfmul : decode 0b000100_00_0000000000000010_10000000 = .ok (.gfmul 0x02 0x80) := by decide
theorem test_decode_gfinv : decode 0b000101_00_0000000000000000_00000010 = .ok (.gfinv 0x02) := by decide
theorem test_decode_gflog : decode 0b000110_00_0000000000000000_00011101 = .ok (.gflog 0x1D) := by decide
theorem test_decode_gfexp : decode 0b000111_00_0000000000000000_00001000 = .ok (.gfexp 8) := by decide
theorem test_decode_synd : decode 0b001000_00_0000000000000000_00000000 = .ok .synd := by decide
theorem test_decode_disc : decode 0b001001_00_0000000000000000_00000000 = .ok .disc := by decide
theorem test_decode_bma : decode 0b001010_00_0000000000000000_00000000 = .ok .bma := by decide
theorem test_decode_chien : decode 0b001011_00_0000000000000000_00000000 = .ok .chien := by decide
theorem test_decode_recover : decode 0b001100_00_0000000000000000_00000000 = .ok .recover := by decide
theorem test_decode_wrdata : decode 0b010000_00_0000000000000011_10100101 = .ok (.wrdata 3 0xA5) := by decide
theorem test_decode_rddata : decode 0b010001_00_0000000000000011_00000000 = .ok (.rddata 3) := by decide
theorem test_decode_setdlen : decode 0b010010_00_0000000000000100_00000000 = .ok (.setdlen 4) := by decide
theorem test_decode_wrref : decode 0b010011_00_0000000000000001_00011101 = .ok (.wrref 1 0x1D) := by decide
theorem test_decode_rdref : decode 0b010100_00_0000000000000001_00000000 = .ok (.rdref 1) := by decide
theorem test_decode_setrlen : decode 0b010101_00_0000000000000101_00000000 = .ok (.setrlen 5) := by decide
theorem test_decode_rdsyn : decode 0b010110_00_0000000000000010_00000000 = .ok (.rdsyn 2) := by decide
theorem test_decode_rddisc : decode 0b010111_00_0000000000000010_00000000 = .ok (.rddisc 2) := by decide
theorem test_decode_rdsig : decode 0b011000_00_0000000000000001_00000000 = .ok (.rdsig 1) := by decide
theorem test_decode_rdosig : decode 0b011001_00_0000000000000001_00000000 = .ok (.rdosig 1) := by decide
theorem test_decode_rdreg : decode 0b011010_00_0000000000000000_00000111 = .ok (.rdreg 7) := by decide

/-- V-ENC 2 to 11: the words that are ILLEGAL. -/
theorem test_decode_illegal :
    ([0x00000001, 0x01000000, 0x0C000000, 0x34000000, 0x6C000000, 0xFC000000, 0x10010203, 0x14000100, 0x44000301,
      0x42000301] : List Word).all (fun w => (decodeTableWord 32 w.toNat).isNone) = true := by decide

/-! ### States -/

/-- The block after reset. -/
def fresh : State := State.reset

/-- The block of program P2 (95_test_vectors.md) before its RECOVER, but with SYN and DISC as INIT leaves them: T = 2,
DBUF = 02 14 56 78, REF = 00 1F 48 EE 8D. -/
def ready : State :=
  { fresh with
    tables := standardTables, tv := true, t := 2
    dbuf := [(0, 0x02), (1, 0x14), (2, 0x56), (3, 0x78)], dlen := 4
    ref := [(0, 0x00), (1, 0x1F), (2, 0x48), (3, 0xEE), (4, 0x8D)], rlen := 5 }

/-- The same with the original data 12 34 56 78. -/
def original : State := { ready with dbuf := [(0, 0x12), (1, 0x34), (2, 0x56), (3, 0x78)] }

/-- The same with bit 3 of the original flipped. -/
def oneBitOff : State := { ready with dbuf := [(0, 0x02), (1, 0x34), (2, 0x56), (3, 0x78)] }

/-- One 32-byte buffer of zeros. -/
def zeros : State := { ready with dbuf := (List.range 32).map fun k => (k, 0), dlen := 32 }

/-- T = 1, DBUF = 40, DLEN = 1, REF = 00 02 05, RLEN = 3: the state of V-DSC 1. -/
def small : State :=
  { ready with t := 1, dbuf := [(0, 0x40)], dlen := 1, ref := [(0, 0x00), (1, 0x02), (2, 0x05)], rlen := 3 }

/-- The response of a result. -/
def rspOf : Result → Option Word
  | .next t => t.rsp
  | _ => none

/-- A property of the state a result gives. -/
def holdsIn (r : Result) (f : State → Bool) : Bool :=
  match r with
  | .next t => f t
  | _ => false

/-- The state in which the host offers one word. -/
def offering (s : State) (w : Word) : State := { s with inputs := [.command w] }

/-! ### One step of each command, from the tables of 95_test_vectors.md -/

theorem test_nop : rspOf (step (offering fresh 0x00000000)) = some 0x00000000 := by decide

/-- V-INIT 1. -/
theorem test_init :
    holdsIn (exec (.init 2) fresh) (fun t => t.tv && t.t == 2 && statusView t == 0x0001) = true := by decide +kernel

/-- V-INIT 2 and V-INIT 3. -/
theorem test_init_badcfg :
    rspOf (exec (.init 0) fresh) = some 0x84000000 ∧ rspOf (exec (.init 5) fresh) = some 0x84000000 ∧
    holdsIn (exec (.init 0) fresh) (fun t => statusView t == 0x0044) = true := by decide

/-- V-REJ 7: a rejected CLRERR clears nothing. -/
theorem test_clrerr :
    holdsIn (step (offering (reject .notInit fresh) 0x08000001) ) (fun t => t.rsp.isNone) = false ∧
    holdsIn (exec .clrerr (reject .notInit fresh)) (fun t => !t.err && t.ecode == 0) = true := by decide

/-- V-ARITH 1, 2, 11. -/
theorem test_gfmul :
    rspOf (exec (.gfmul 0x53 0xCA) ready) = some 0x8F ∧ rspOf (exec (.gfmul 0xFF 0xFF) ready) = some 0xE2 ∧
    rspOf (exec (.gfmul 0x8E 0x02) ready) = some 0x01 := by decide +kernel

/-- V-ARITH 33. -/
theorem test_gfmul_notinit : rspOf (exec (.gfmul 2 3) fresh) = some 0x82000000 := by decide

/-- V-ARITH 12, 13, 19. -/
theorem test_gfinv :
    rspOf (exec (.gfinv 0x00) ready) = some 0x00 ∧ rspOf (exec (.gfinv 0x01) ready) = some 0x01 ∧
    rspOf (exec (.gfinv 0xFF) ready) = some 0xFD := by decide +kernel

/-- V-ARITH 21, 26. -/
theorem test_gflog :
    rspOf (exec (.gflog 0x00) ready) = some 0x0000FFFF ∧ rspOf (exec (.gflog 0xFF) ready) = some 0xAF := by
  decide +kernel

/-- V-ARITH 31, 32. -/
theorem test_gfexp :
    rspOf (exec (.gfexp 254) ready) = some 0x8E ∧ rspOf (exec (.gfexp 255) ready) = some 0x01 := by decide +kernel

/-- V-SYN 8: SYN of 12 34 56 78 with t = 2. -/
theorem test_synd :
    holdsIn (exec .synd original) (fun t => t.syn == [0x00, 0x1F, 0x48, 0xEE, 0x8D, 0, 0, 0, 0]) = true := by
  decide +kernel

/-- V-DSC 1. -/
theorem test_disc :
    holdsIn (exec .disc { small with syn := [0, 0x02, 0x04, 0, 0, 0, 0, 0, 0] })
      (fun t => t.disc == [0, 0, 1, 0, 0, 0, 0, 0, 0] && !t.nodisc && t.rsp == some 0) = true := by decide +kernel

/-- V-BM 4. -/
theorem test_bma :
    holdsIn (exec .bma { ready with disc := [0x00, 0x7C, 0xF4, 0x5A, 0xA7, 0, 0, 0, 0] })
      (fun t => t.sigma == [0x01, 0x7C, 0x87, 0, 0] && t.osig == [0x01, 0x7C, 0, 0, 0] && t.l == 2 && t.mval == 2 &&
        t.b == 0x85 && t.rsp == some 2) = true := by decide +kernel

/-- V-BM 2: L above T. -/
theorem test_bma_over_capacity :
    holdsIn (exec .bma { small with disc := [0x00, 0x00, 0x05, 0, 0, 0, 0, 0, 0] })
      (fun t => t.sigma == [0x01, 0, 0, 0, 0] && t.l == 2 && t.mval == 1 && t.b == 0x05) = true := by decide +kernel

/-- V-CHN 3, at the bits 0x12, 0x24. -/
theorem test_chien :
    holdsIn (exec .chien { ready with
        sigma := [0x01, 0x7C, 0x87, 0, 0], l := 2, dbuf := [(0, 0x12), (1, 0x24), (2, 0x56), (3, 0x78)] })
      (fun t => t.dbuf == [(0, 0x02), (1, 0x04), (2, 0x56), (3, 0x78)] && t.flipcnt == 2) = true := by decide +kernel

/-- V-CHN 2: the literal reading marks no position of one byte. -/
theorem test_chien_literal :
    holdsIn (exec .chien { small with
        sigma := [0x01, 0x02, 0, 0, 0], l := 1, par := { Config.params with chienExp := .literal } })
      (fun t => t.dbuf == [(0, 0x40)] && t.rsp == some 0) = true := by decide +kernel

/-- V-REC 1. -/
theorem test_recover :
    holdsIn (exec .recover ready)
      (fun t => t.dbuf == [(0, 0x12), (1, 0x34), (2, 0x56), (3, 0x78)] && t.rsp == some 2 && t.l == 2 &&
        t.sigma == [0x01, 0x7C, 0x87, 0, 0]) = true := by decide +kernel

/-- V-REC 3. -/
theorem test_recover_clean :
    holdsIn (exec .recover original) (fun t => t.rsp == some 0x00000100 && t.mval == 1 && t.dbuf == original.dbuf) =
      true := by decide +kernel

/-- V-ACC 1 and V-ACC 4. -/
theorem test_wrdata :
    holdsIn (exec (.wrdata 3 0xA5) ready) (fun t => readDbuf t 3 == 0xA5 && readDbuf t 2 == 0x56) = true ∧
    rspOf (exec (.wrdata 32 0x01) ready) = some 0x83000000 := by decide

/-- V-ACC 2. -/
theorem test_rddata : rspOf (exec (.rddata 3) { ready with dbuf := [(3, 0xA5)] }) = some 0xA5 := by decide

/-- V-ACC 5 and V-ACC 6. -/
theorem test_setdlen :
    holdsIn (exec (.setdlen 32) ready) (fun t => t.dlen == 32) = true ∧
    rspOf (exec (.setdlen 33) ready) = some 0x83000000 := by decide

/-- V-ACC 7 and V-ACC 8. -/
theorem test_wrref :
    holdsIn (exec (.wrref 8 0x11) ready) (fun t => readRef t 8 == 0x11 && readRef t 4 == 0x8D) = true ∧
    rspOf (exec (.wrref 9 0x11) ready) = some 0x83000000 := by decide

/-- V-ACC 9. -/
theorem test_rdref : rspOf (exec (.rdref 8) { ready with ref := [(8, 0x11)] }) = some 0x11 := by decide

/-- V-ACC 10 and V-ACC 11. -/
theorem test_setrlen :
    holdsIn (exec (.setrlen 9) ready) (fun t => t.rlen == 9) = true ∧
    rspOf (exec (.setrlen 10) ready) = some 0x83000000 := by decide

/-- V-ACC 13 and the example of R178. -/
theorem test_rdsyn :
    rspOf (exec (.rdsyn 2) { small with syn := [0, 0x02, 0x04, 0, 0, 0, 0, 0, 0] }) = some 0x04 ∧
    rspOf (exec (.rdsyn 9) ready) = some 0x83000000 := by decide

/-- The example of R179. -/
theorem test_rddisc :
    rspOf (exec (.rddisc 2) { small with disc := [0, 0, 0x01, 0, 0, 0, 0, 0, 0] }) = some 0x01 := by decide

/-- V-ACC 15, 16, 17. -/
theorem test_rdsig :
    rspOf (exec (.rdsig 0) ready) = some 1 ∧ rspOf (exec (.rdsig 4) ready) = some 0 ∧
    rspOf (exec (.rdsig 5) ready) = some 0x83000000 := by decide

/-- V-ACC 18 and P0 step 9. -/
theorem test_rdosig :
    rspOf (exec (.rdosig 0) fresh) = some 1 ∧ rspOf (exec (.rdosig 5) ready) = some 0x83000000 := by decide

/-- V-ACC 19, 20, 21 and P0 steps 5 and 6. -/
theorem test_rdreg :
    rspOf (exec (.rdreg 1) ready) = some 2 ∧ rspOf (exec (.rdreg 10) ready) = some 0 ∧
    rspOf (exec (.rdreg 11) ready) = some 0x83000000 ∧ rspOf (exec (.rdreg 8) fresh) = some 4 ∧
    rspOf (exec (.rdreg 9) fresh) = some 0x20 := by decide

/-- P0 step 12: STATUS after a NOTINIT rejection. -/
theorem test_rdreg_status : rspOf (exec (.rdreg 0) (reject .notInit fresh)) = some 0x24 := by decide

/-- R91 and R90: text to words. -/
theorem test_assemble :
    assemble ['I', 'N', 'I', 'T', ' ', '2', '\n', 'S', 'E', 'T', 'B', 'U', 'F', ' ', '0', 'x', '4', '0'] =
      some [0x04000002, 0x40000040, 0x48000100] := by decide

/-- R89: an operand that does not fit is an error. -/
theorem test_assemble_error : assemble ['I', 'N', 'I', 'T', ' ', '2', '5', '6'] = none := by decide

/-! ### The states meet their premises -/

theorem ready_inv : ready.Inv where
  alphaTo_length := by decide +kernel
  indexOf_length := by decide +kernel
  syn_length := by decide
  disc_length := by decide
  sigma_length := by decide
  osig_length := by decide
  syn_zero := by decide
  disc_zero := by decide
  syn_above := by decide
  disc_above := by decide
  sigma_zero := by decide
  osig_zero := by decide
  sigma_above := by decide
  osig_above := by decide
  b_ne_zero := by decide
  l_le := by decide
  mval_pos := by decide
  mval_le := by decide
  dlen_le := by decide
  rlen_le := by decide
  tv_iff := by decide
  not_tv_iff := by decide
  tables_built := fun _ => rfl
  err_iff := by decide
  ecode_le := by decide
  dbuf_wf := by decide
  ref_wf := by decide
  dbuf_inside := by decide
  ref_inside := by decide

/-- Other data and another reference in place of those of `ready`. -/
theorem ready_with (dbuf ref : Memory) (dlen rlen : BitVec 16) (hd : dbuf.wf) (hr : ref.wf)
    (hdi : ∀ c ∈ dbuf, c.1 < 32) (hri : ∀ c ∈ ref, c.1 ≤ 8) (hdl : dlen.toNat ≤ 32) (hrl : rlen.toNat ≤ 9) :
    ({ ready with dbuf := dbuf, ref := ref, dlen := dlen, rlen := rlen } : State).Ready where
  tv := rfl
  inv := { ready_inv with
    dlen_le := hdl, rlen_le := hrl, dbuf_wf := hd, ref_wf := hr, dbuf_inside := hdi, ref_inside := hri }

theorem ready_ready : ready.Ready := ⟨ready_inv, rfl⟩

theorem original_ready : original.Ready :=
  ready_with _ _ 4 5 (by decide) (by decide) (by decide) (by decide) (by decide) (by decide)

theorem oneBitOff_ready : oneBitOff.Ready :=
  ready_with _ _ 4 5 (by decide) (by decide) (by decide) (by decide) (by decide) (by decide)

theorem zeros_ready : zeros.Ready :=
  ready_with _ _ 32 5 (by decide) (by decide) (by decide) (by decide) (by decide) (by decide)

/-! ### Witnesses: concrete states and operands that meet the hypotheses of each statement, clause by clause -/

theorem exists_of_holdsIn {r : Result} {f : State → Bool} (h : holdsIn r f = true) : ∃ t, r = .next t ∧ f t = true := by
  cases r with
  | next t => exact ⟨t, rfl, h⟩
  | fault _ => exact absurd h (by simp [holdsIn])
  | refused _ => exact absurd h (by simp [holdsIn])

theorem offers_offering (s : State) (w : Word) (h : s.rsp = none) : Offers (offering s w) w [] := ⟨rfl, h⟩

/-- The OPC, the must-be-zero bits, a word that has them 0 (all other operand bits 1) and one that has them not 0, for
every `Encoded` clause. -/
def encodedWords : List (Nat × Word × Word × Word) :=
  [(0x00, 0x03FFFFFF, 0x00000000, 0x00000001), (0x01, 0x03FFFF00, 0x040000FF, 0x04000100),
    (0x02, 0x03FFFFFF, 0x08000000, 0x0A000000), (0x04, 0x03FF0000, 0x1000FFFF, 0x10010203),
    (0x05, 0x03FFFF00, 0x140000FF, 0x14000100), (0x06, 0x03FFFF00, 0x180000FF, 0x1A000000),
    (0x07, 0x03FFFF00, 0x1C0000FF, 0x1C800000), (0x08, 0x03FFFFFF, 0x20000000, 0x20000001),
    (0x09, 0x03FFFFFF, 0x24000000, 0x24000100), (0x0A, 0x03FFFFFF, 0x28000000, 0x2A000000),
    (0x0B, 0x03FFFFFF, 0x2C000000, 0x2D000000), (0x0C, 0x03FFFFFF, 0x30000000, 0x30000001)] ++
  [(0x10, 0x03000000, 0x40FFFFFF, 0x41000000), (0x11, 0x030000FF, 0x44FFFF00, 0x44000301),
    (0x12, 0x030000FF, 0x48FFFF00, 0x48000080), (0x13, 0x03000000, 0x4CFFFFFF, 0x4E000000),
    (0x14, 0x030000FF, 0x50FFFF00, 0x50000001), (0x15, 0x030000FF, 0x54FFFF00, 0x55000000),
    (0x16, 0x030000FF, 0x58FFFF00, 0x58000001), (0x17, 0x030000FF, 0x5CFFFF00, 0x5E000000),
    (0x18, 0x030000FF, 0x60FFFF00, 0x60000001), (0x19, 0x030000FF, 0x64FFFF00, 0x65000000),
    (0x1A, 0x03FFFF00, 0x680000FF, 0x68000100)]

theorem witness_Encoded :
    (∀ w : Word, Offers (offering fresh w) w []) ∧
    encodedWords.all (fun r =>
      r.2.2.1.toNat / 2 ^ 26 == r.1 && r.2.2.2.toNat / 2 ^ 26 == r.1 &&
      r.2.2.1 &&& r.2.1 == 0 && !(r.2.2.2 &&& r.2.1 == 0)) = true :=
  ⟨fun w => offers_offering fresh w rfl, by decide⟩

theorem witness_EncodeOfDecodedIsTheWord : decode 0x40FFFFFF = .ok (.wrdata 0xFFFF 0xFF) := by decide

theorem witness_ReservedEncodingsAreIllegal :
    (∀ w : Word, Offers (offering fresh w) w []) ∧
    ([0x0C000000, 0x37FFFFFF, 0x3C000000, 0x6C000000, 0xFC000000] : List Word).all (fun w =>
      w.toNat / 2 ^ 26 == 0x03 || (0x0D ≤ w.toNat / 2 ^ 26 && w.toNat / 2 ^ 26 ≤ 0x0F) || 0x1B ≤ w.toNat / 2 ^ 26) =
      true ∧
    inTable 0x01000000 = false ∧ inTable 0x680000FF = true :=
  ⟨fun w => offers_offering fresh w rfl, by decide, by decide, by decide⟩

theorem witness_StepRunsTheDecodedCommand :
    Offers (offering ready 0x10000280) 0x10000280 [] ∧ decode 0x10000280 = .ok (.gfmul 0x02 0x80) :=
  ⟨offers_offering ready _ rfl, by decide⟩

/-- Every cause, and both sides of every bound of R202. -/
theorem witness_RejectionsAreThoseOfTheCauseTable :
    (∀ w : Word, Offers (offering fresh w) w [] ∧ Offers (offering ready w) w []) ∧
    ([(0x10010203, 1), (0x04000000, 4), (0x04000001, 0), (0x04000004, 0), (0x04000005, 4), (0x10000203, 2),
      (0x14000001, 2), (0x18000001, 2), (0x1C000001, 2), (0x20000000, 2), (0x24000000, 2), (0x28000000, 2),
      (0x2C000000, 2), (0x30000000, 2), (0x00000000, 0), (0x08000000, 0)] : List (Word × BitVec 4)).all
      (fun r => causeOf fresh.par fresh.tv r.1 == r.2) = true ∧
    ([(0x40001F00, 0), (0x40002000, 3), (0x44001F00, 0), (0x44002000, 3), (0x48002000, 0), (0x48002100, 3),
      (0x4C000800, 0), (0x4C000900, 3), (0x50000800, 0), (0x50000900, 3), (0x54000900, 0), (0x54000A00, 3),
      (0x58000800, 0), (0x58000900, 3), (0x5C000800, 0), (0x5C000900, 3), (0x60000400, 0), (0x60000500, 3),
      (0x64000400, 0), (0x64000500, 3), (0x6800000A, 0), (0x6800000B, 3), (0x30000000, 0)] :
      List (Word × BitVec 4)).all (fun r => causeOf ready.par ready.tv r.1 == r.2) = true :=
  ⟨fun w => ⟨offers_offering fresh w rfl, offers_offering ready w rfl⟩, by decide, by decide⟩

theorem witness_ErrorRecordIsStickyUntilCleared :
    (∃ t, step { fresh with inputs := [.reset] } = .next t) ∧ ResetNext { fresh with inputs := [.reset] } ∧
    (∃ t, step (offering fresh 0x08000000) = .next t) ∧
    (∃ t, step (offering fresh 0x40000040) = .next t) ∧ causeOf fresh.par fresh.tv 0x40000040 = 0 ∧
    (∃ t, step (offering fresh 0x10000203) = .next t) ∧ causeOf fresh.par fresh.tv 0x10000203 ≠ 0 ∧
    (∃ t, step { fresh with inputs := [.takeResponse], rsp := some 0 } = .next t) ∧
    ¬ ResetNext { fresh with inputs := [.takeResponse], rsp := some 0 } :=
  ⟨⟨_, rfl⟩, ⟨[], .inl rfl⟩, ⟨_, rfl⟩, ⟨_, rfl⟩, by decide, ⟨_, rfl⟩, by decide, ⟨_, rfl⟩,
    by rintro ⟨rest, h | ⟨w, h⟩⟩ <;> cases h⟩

theorem witness_AcceptedWordYieldsOneResponse : Offers (offering ready 0x30000000) 0x30000000 [] :=
  offers_offering ready _ rfl

theorem witness_OnlyAnUntakenResponseStopsTheStep :
    step { offering ready 0 with rsp := some 0 } = .fault .portStalled := rfl

theorem witness_TakingAResponseTouchesThePortOnly :
    ({ ready with inputs := [.takeResponse], rsp := some 2 } : State).rsp = some 2 ∧ ready.inputs = [] := ⟨rfl, rfl⟩

theorem witness_ResetLeavesTheStatedValues :
    ({ ready with inputs := [.reset] } : State).inputs = .reset :: [] ∧
    ({ ready with inputs := [.resetDuring 0x30000000] } : State).inputs = .resetDuring 0x30000000 :: [] ∧
    ready.rsp = none := ⟨rfl, rfl, rfl⟩

theorem witness_ResetKeepsTheHostsRecordAndTheParameters :
    ({ ready with inputs := [.reset, .takeResponse], rsp := some 2, taken := [1] } : State).inputs =
      .reset :: [.takeResponse] ∧
    ({ ready with inputs := [.resetDuring 0x30000000] } : State).inputs = .resetDuring 0x30000000 :: [] := ⟨rfl, rfl⟩

theorem witness_StepKeepsTheInvariants :
    (offering ready 0x40001FFF).Inv ∧ ∃ t, step (offering ready 0x40001FFF) = .next t :=
  ⟨{ ready_inv with }, ⟨_, rfl⟩⟩

theorem witness_ParametersAreNeverWritten : step ready = .next ready := rfl

/-- A block whose tables hold zeros: an accepted INIT changes them. -/
def blankTables : State :=
  { fresh with tables := { alphaTo := List.replicate 256 0, indexOf := List.replicate 256 0 } }

theorem witness_TablesAreWrittenOnlyByInit :
    ∃ t, exec (.init 2) blankTables = .next t ∧ (t.tables != blankTables.tables) = true :=
  exists_of_holdsIn (f := fun t => t.tables != blankTables.tables) (by decide +kernel)

theorem witness_InitBuildsThePrintedTables :
    blankTables.tables.alphaTo.length = 256 ∧ blankTables.tables.indexOf.length = 256 ∧
    1 ≤ (1 : Byte).toNat ∧ (4 : Byte).toNat ≤ blankTables.par.tmax := by decide +kernel

theorem witness_TablesAreMutualInverses :
    blankTables.tables.alphaTo.length = 256 ∧ blankTables.tables.indexOf.length = 256 ∧
    1 ≤ (4 : Byte).toNat ∧ (4 : Byte).toNat ≤ blankTables.par.tmax := by decide +kernel

theorem witness_TablesValidIsSetByInitAndClearedByReset :
    (∃ t, step { ready with inputs := [.reset] } = .next t ∧ (ready.tv && !t.tv) = true) ∧
    ResetNext { ready with inputs := [.reset] } ∧
    (∃ t, exec (.init 4) fresh = .next t ∧ t.tv = true) ∧ (4 : Byte).toNat ≤ fresh.par.tmax ∧
    (∃ t, step (offering fresh 0x04000001) = .next t ∧ (!fresh.tv && t.tv) = true) ∧ fresh.tv = false :=
  ⟨exists_of_holdsIn (f := fun t => ready.tv && !t.tv) (by decide), ⟨[], .inl rfl⟩,
    exists_of_holdsIn (f := fun t => t.tv) (by decide), by decide,
    exists_of_holdsIn (f := fun t => !fresh.tv && t.tv) (by decide), rfl⟩

/-- Each element of the frame changes under one of its writers. -/
theorem witness_ElementsChangeOnlyByTheirWriters :
    (∃ t, exec (.init 1) blankTables = .next t ∧
      (t.t != blankTables.t && t.tv != blankTables.tv && t.tables.alphaTo != blankTables.tables.alphaTo &&
        t.tables.indexOf != blankTables.tables.indexOf) = true) ∧
    (∃ t, exec (.rdreg 11) ready = .next t ∧ (t.err != ready.err && t.ecode != ready.ecode) = true) ∧
    (∃ t, exec .clrerr { ready with err := true, ecode := 3 } = .next t ∧ (!t.err && t.ecode == 0) = true) ∧
    (∃ t, exec (.setdlen 32) ready = .next t ∧ (t.dlen != ready.dlen) = true) ∧
    (∃ t, exec (.setrlen 9) ready = .next t ∧ (t.rlen != ready.rlen) = true) ∧
    (∃ t, exec (.wrref 4 0) ready = .next t ∧ (readRef t 4 != readRef ready 4) = true) ∧
    (∃ t, exec (.wrdata 3 0) ready = .next t ∧ (readDbuf t 3 != readDbuf ready 3) = true) ∧
    (∃ t, exec .recover ready = .next t ∧
      (readDbuf t 0 != readDbuf ready 0 && t.syn != ready.syn && t.disc != ready.disc && t.sigma != ready.sigma &&
        t.flipcnt != ready.flipcnt) = true) :=
  ⟨exists_of_holdsIn (f := fun t => t.t != blankTables.t && t.tv != blankTables.tv &&
      t.tables.alphaTo != blankTables.tables.alphaTo && t.tables.indexOf != blankTables.tables.indexOf)
      (by decide +kernel),
    exists_of_holdsIn (f := fun t => t.err != ready.err && t.ecode != ready.ecode) (by decide),
    exists_of_holdsIn (f := fun t => !t.err && t.ecode == 0) (by decide),
    exists_of_holdsIn (f := fun t => t.dlen != ready.dlen) (by decide),
    exists_of_holdsIn (f := fun t => t.rlen != ready.rlen) (by decide),
    exists_of_holdsIn (f := fun t => readRef t 4 != readRef ready 4) (by decide),
    exists_of_holdsIn (f := fun t => readDbuf t 3 != readDbuf ready 3) (by decide),
    exists_of_holdsIn (f := fun t => readDbuf t 0 != readDbuf ready 0 && t.syn != ready.syn && t.disc != ready.disc &&
      t.sigma != ready.sigma && t.flipcnt != ready.flipcnt) (by decide +kernel)⟩

theorem witness_ReadsHaveNoSideEffect :
    isRead (.rddata 0) = true ∧ rspOf (exec (.rddata 3) ready) = some 0x00000078 ∧ rejBit 0x00000078 = false ∧
    rspOf (exec (.rddata 0xFFFF) ready) = some 0x83000000 ∧ rejBit 0x83000000 = true := by decide

theorem witness_InitConstructsAnInstance :
    1 ≤ (1 : Byte).toNat ∧ (4 : Byte).toNat ≤ fresh.par.tmax ∧ (0 : Byte).toNat = 0 ∧
    fresh.par.tmax < (5 : Byte).toNat := by decide

/-- The two cases of every command of the NOTINIT set, T in range where it is asked for. -/
theorem witness_commands_that_need_the_tables :
    ready.Ready ∧ ready.tv = true ∧ ready.t.toNat ≤ ready.par.tmax ∧ fresh.tv = false :=
  ⟨ready_ready, by decide, by decide, by decide⟩

theorem witness_GflogRespondsWithTheLogarithm : ready.Ready ∧ ready.tv = true ∧ (1 : Byte) ≠ 0 ∧ (0xFF : Byte) ≠ 0 :=
  ⟨ready_ready, by decide, by decide, by decide⟩

theorem witness_GfmulIsThePolynomialProduct : ready.Ready := ready_ready

theorem witness_FieldLawsHold : ready.Ready ∧ (1 : Byte) ≠ 0 := ⟨ready_ready, by decide⟩

theorem witness_SyndEvaluatesTheSyndromes :
    1 ≤ 2 * ready.t.toNat ∧ ready.tv = true ∧ ready.t.toNat ≤ ready.par.tmax := by decide

/-- Position 1 of one byte. -/
theorem witness_SingleSetBitGivesItsPowers :
    ({ ready with dbuf := [(0, 0x40)], dlen := 1 } : State).Ready ∧
    ∀ q < 8, bit { ready with dbuf := [(0, 0x40)], dlen := 1 } q = decide (q = 1) :=
  ⟨ready_with _ _ 1 5 (by decide) (by decide) (by decide) (by decide) (by decide) (by decide), by decide⟩

theorem witness_SyndromesAreLinear :
    oneBitOff.Ready ∧ ({ ready with dbuf := [(0, 0x10), (1, 0), (2, 0), (3, 0)] } : State).Ready ∧ original.Ready ∧
    ∀ k < 4, readDbuf original k =
      readDbuf oneBitOff k ^^^ readDbuf { ready with dbuf := [(0, 0x10), (1, 0), (2, 0), (3, 0)] } k :=
  ⟨oneBitOff_ready, ready_with _ _ 4 5 (by decide) (by decide) (by decide) (by decide) (by decide) (by decide),
    original_ready, by decide⟩

/-- Positions 0 and 255 of 32 bytes (V-SYN 10). -/
theorem witness_AliasedPositionsCancel :
    zeros.Ready ∧
    ({ zeros with dbuf := (zeros.dbuf.write 0 0x80).write 31 0x01 } : State).Ready ∧ (0 : Nat) % 255 = 255 % 255 ∧
    ∀ q < 256, bit { zeros with dbuf := (zeros.dbuf.write 0 0x80).write 31 0x01 } q =
      (bit zeros q != decide (q = 0 ∨ q = 255)) :=
  ⟨zeros_ready, ready_with _ _ 32 5 (by decide +kernel) (by decide) (by decide +kernel) (by decide) (by decide)
    (by decide), by decide, by decide +kernel⟩

theorem witness_EvenSyndromesAreSquares : ready.Ready ∧ 1 ≤ 2 ∧ 2 * 2 ≤ 2 * ready.t.toNat :=
  ⟨ready_ready, by decide⟩

theorem witness_DiscComparesWithTheReference :
    ready.tv = true ∧ ready.t.toNat ≤ ready.par.tmax ∧ comparedUpTo ready = 4 ∧
    comparedUpTo { ready with rlen := 0 } = 0 ∧ comparedUpTo { ready with rlen := 1 } = 0 ∧
    comparedUpTo { ready with rlen := 3 } = 2 ∧ comparedUpTo { ready with rlen := 9 } = 4 := by decide

theorem witness_BmaOnZeroDiscrepancies : ready.Ready ∧ ∀ i ≤ 2 * ready.t.toNat, entry ready.disc i = 0 :=
  ⟨ready_ready, by decide⟩

theorem witness_RecurrenceRegistersStayInRange : ready.Ready ∧ 1 ≤ 1 ∧ 4 ≤ 2 * ready.t.toNat :=
  ⟨ready_ready, by decide⟩

/-- V-BM 4: a state with discrepancies, in which BMA ends with L = T = 2. -/
def discrepant : State := { ready with disc := [0x00, 0x7C, 0xF4, 0x5A, 0xA7, 0, 0, 0, 0] }

theorem witness_LocatorIsARecurrenceOfTheDiscrepancies :
    discrepant.Ready ∧
    ∃ t, exec .bma discrepant = .next t ∧ (decide (t.l.toNat ≤ discrepant.t.toNat) && t.l == 2) = true :=
  ⟨⟨{ ready_inv with
      disc_length := by decide, disc_zero := by decide, disc_above := by decide }, rfl⟩,
    exists_of_holdsIn (f := fun t => decide (t.l.toNat ≤ discrepant.t.toNat) && t.l == 2) (by decide +kernel)⟩

theorem witness_ChienTwiceRestoresTheData : ready.tv = true := rfl

/-- A block with an empty reference. -/
def unreferenced : State := { ready with ref := [], rlen := 0 }

theorem witness_StepwiseDecodeOfCleanData :
    unreferenced.Ready ∧ ∃ t, exec .disc unreferenced = .next t ∧ t.nodisc = true :=
  ⟨ready_with _ _ 4 0 (by decide) (by decide) (by decide) (by decide) (by decide) (by decide),
    exists_of_holdsIn (f := fun t => t.nodisc) (by decide +kernel)⟩

/-- RECOVER's two cases: a discrepancy and none. -/
theorem witness_RecoverComposesTheFourSteps :
    holdsIn (exec .recover ready) (fun t => !t.nodisc) = true ∧
    holdsIn (exec .recover original) (fun t => t.nodisc) = true := by decide +kernel

/-- Two states that differ in what earlier commands left. -/
theorem witness_RecoverIsAFunctionOfItsInputs :
    ready.Ready ∧ discrepant.Ready ∧ discrepant.par.chienExp = ready.par.chienExp ∧ discrepant.dlen = ready.dlen ∧
    discrepant.t = ready.t ∧ discrepant.rlen = ready.rlen ∧ discrepant.ref = ready.ref ∧
    discrepant.dbuf = ready.dbuf ∧ discrepant.disc ≠ ready.disc :=
  ⟨ready_ready, witness_LocatorIsARecurrenceOfTheDiscrepancies.1, rfl, rfl, rfl, rfl, rfl, rfl, by decide⟩

theorem witness_RecoverLeavesMatchingDataUnchanged :
    original.Ready ∧ ∀ i ≤ comparedUpTo original, 1 ≤ i → readRef original i = syndromeOf original i :=
  ⟨original_ready, by decide +kernel⟩

/-- The original, its SYND as REF, and bit 3 flipped. -/
theorem witness_SingleBitErrorIsCorrected :
    original.Ready ∧ oneBitOff.Ready ∧
    (∃ o1, exec .synd original = .next o1 ∧
      (List.range 4).all (fun k => readRef oneBitOff (k + 1) == entry o1.syn (k + 1)) = true) ∧
    oneBitOff.par.chienExp = .reciprocal ∧ oneBitOff.t = original.t ∧ oneBitOff.dlen = original.dlen ∧
    oneBitOff.rlen.toNat = 2 * oneBitOff.t.toNat + 1 ∧ 3 < min 255 (8 * oneBitOff.dlen.toNat) ∧
    ∀ q < 32, bit oneBitOff q = (bit original q != decide (q = 3)) :=
  ⟨original_ready, oneBitOff_ready,
    exists_of_holdsIn (f := fun o1 => (List.range 4).all fun k => readRef oneBitOff (k + 1) == entry o1.syn (k + 1))
      (by decide +kernel),
    by decide, by decide, by decide, by decide, by decide, by decide⟩

/-- Both sides of the bounds of the host access commands. -/
theorem witness_host_access_bounds :
    (31 : Half).toNat < ready.par.dmax ∧ ready.par.dmax ≤ (32 : Half).toNat ∧ (32 : Half).toNat ≤ ready.par.dmax ∧
    ready.par.dmax < (33 : Half).toNat ∧ (8 : Half).toNat ≤ 2 * ready.par.tmax ∧
    2 * ready.par.tmax < (9 : Half).toNat ∧ (9 : Half).toNat ≤ 2 * ready.par.tmax + 1 ∧
    2 * ready.par.tmax + 1 < (10 : Half).toNat ∧ (4 : Half).toNat ≤ ready.par.tmax ∧
    ready.par.tmax < (5 : Half).toNat ∧ (10 : Byte).toNat ≤ 10 ∧ 10 < (11 : Byte).toNat := by decide

theorem witness_vector_read_corners :
    ready.Inv ∧ (0 : Half).toNat = 0 ∧ 2 * ready.t.toNat < (5 : Half).toNat ∧ (8 : Half).toNat ≤ 2 * ready.par.tmax ∧
    ready.t.toNat < (3 : Half).toNat ∧ (4 : Half).toNat ≤ ready.par.tmax :=
  ⟨ready_inv, by decide, by decide, by decide, by decide, by decide⟩

theorem witness_AssembledCommandsDecode :
    operandsFit [0xFFFF, 0xFF] (Opcode.operandWidths .wrdata) = true ∧
    operandsFit [0x10000, 0xFF] (Opcode.operandWidths .wrdata) = false ∧ ¬ 2 ^ 8 ≤ 0xFF := by decide

theorem witness_PseudoInstructionsExpand :
    ([1, 0xFF] : List Nat) ≠ [] ∧ (∀ v ∈ ([1, 0xFF] : List Nat), v < 2 ^ 8) ∧
    0xFFFE + (([1, 0xFF] : List Nat).length - 1) ≤ 0xFFFF ∧ ([1, 0xFF] : List Nat).length ≤ 0xFFFF ∧
    0xFFFF < 0xFFFF + (([1, 0xFF] : List Nat).length - 1) := by decide

end Sys2Proof.Tests
end

section
/-! The port (00_scope.md R18). -/

namespace Sys2Proof.Machine

/-- Settles O6: no response waits, so the word is accepted, and an accepted word that decodes is executed. -/
theorem stepRunsTheDecodedCommand : Obligations.StepRunsTheDecodedCommand := by
  unfold Obligations.StepRunsTheDecodedCommand
  rintro s w rest i ⟨hInputs, hRsp⟩ hDecode
  rw [step_command_none hInputs hRsp, acceptWord_ok hDecode]
  rfl

end Sys2Proof.Machine
end

section
/-! The field GF(2^8) of a constructed block (41_field_arith.md R110, R111, R117). Every nonzero element is a power of α
and multiplication by a power of α is a repeated `timesAlpha`, so the field laws come from the laws of exponents and the
additivity of `timesAlpha`. -/

namespace Sys2Proof.Machine

/-! ### The powers of α -/

/-- α^n, for every natural number n, as the tables of R102 hold it. -/
def alphaPow (n : Nat) : Byte := elem powerTable (n % 255)

/-- What the engines read from ALPHA_TO at a reduced exponent (R130, R150). -/
theorem elem_alphaTo_mod (n : Nat) : elem standardTables.alphaTo (n % Config.n) = alphaPow n := rfl

theorem toNat_indexOf_alphaPow (n : Nat) : (elem standardTables.indexOf (alphaPow n).toNat).toNat = n % 255 := by
  have hTable : ∀ i < 255, (elem standardTables.indexOf (elem powerTable i).toNat).toNat = i := by decide +kernel
  exact hTable _ (Nat.mod_lt n (by decide))

theorem alphaPow_eq_iff (m n : Nat) : alphaPow m = alphaPow n ↔ m % 255 = n % 255 := by
  constructor
  · intro h
    rw [← toNat_indexOf_alphaPow, h, toNat_indexOf_alphaPow]
  · intro h
    rw [alphaPow, h, ← alphaPow]

/-- The code of log 0 in INDEX_OF is 255, which is no reduced exponent. -/
theorem alphaPow_ne_zero (n : Nat) : alphaPow n ≠ 0 := by
  intro h
  have hLog := toNat_indexOf_alphaPow n
  rw [h, show (elem standardTables.indexOf (0 : Byte).toNat).toNat = 255 from rfl] at hLog
  omega

theorem exists_alphaPow {a : Byte} (h : a ≠ 0) : ∃ n, a = alphaPow n := by
  have hTable : ∀ a : Byte, a ≠ 0 → a = alphaPow (elem logTable a.toNat).toNat := by decide +kernel
  exact ⟨_, hTable a h⟩

/-- α^(n+1) = α · α^n: the step of BuildTables (R100), and around the end of the table. -/
theorem alphaPow_succ (n : Nat) : alphaPow (n + 1) = timesAlpha (alphaPow n) := by
  have hTable : ∀ i < 255, alphaPow (i + 1) = timesAlpha (elem powerTable i) := by decide +kernel
  rw [alphaPow, ← Nat.mod_add_mod, ← alphaPow]
  exact hTable _ (Nat.mod_lt n (by decide))

theorem alphaPow_add (m n : Nat) : alphaPow (m + n) = timesAlpha^[m] (alphaPow n) := by
  induction m with
  | zero => simp
  | succ m ih => rw [Nat.add_right_comm, alphaPow_succ, ih, Function.iterate_succ_apply']

theorem timesAlpha_eq (v : Byte) :
    timesAlpha v = v <<< 1 ^^^ if v.getLsbD 7 then Config.prim.setWidth 8 else 0#8 := by
  unfold timesAlpha
  split
  · rfl
  · exact BitVec.xor_zero.symm

theorem timesAlpha_xor (a b : Byte) : timesAlpha (a ^^^ b) = timesAlpha a ^^^ timesAlpha b := by
  have hReduce : ∀ (x y : Bool) (v : Byte),
      (if (x ^^ y) then v else 0#8) = (if x then v else 0#8) ^^^ if y then v else 0#8 := by
    intro x y v
    cases x <;> cases y <;> simp
  simp only [timesAlpha_eq, BitVec.getLsbD_xor, BitVec.shiftLeft_xor_distrib, hReduce]
  ac_rfl

theorem iterate_timesAlpha_xor (m : Nat) (a b : Byte) :
    timesAlpha^[m] (a ^^^ b) = timesAlpha^[m] a ^^^ timesAlpha^[m] b := by
  induction m with
  | zero => rfl
  | succ m ih => simp only [Function.iterate_succ_apply', ih, timesAlpha_xor]

/-! ### The laws of `gfmul` and `gfinv` -/

@[simp] theorem gfmul_zero_left (tb : Tables) (b : Byte) : gfmul tb 0#8 b = 0#8 := by simp [gfmul]

@[simp] theorem gfmul_zero_right (tb : Tables) (a : Byte) : gfmul tb a 0#8 = 0#8 := by simp [gfmul]

theorem gfmul_comm (tb : Tables) (a b : Byte) : gfmul tb a b = gfmul tb b a := by
  simp only [gfmul, or_comm, Nat.add_comm]

theorem gfmul_alphaPow (m n : Nat) : gfmul standardTables (alphaPow m) (alphaPow n) = alphaPow (m + n) := by
  unfold gfmul
  rw [if_neg (not_or.2 ⟨alphaPow_ne_zero m, alphaPow_ne_zero n⟩), elem_alphaTo_mod,
    toNat_indexOf_alphaPow, toNat_indexOf_alphaPow, alphaPow_eq_iff, ← Nat.add_mod]

theorem gfmul_alphaPow_left (m : Nat) (b : Byte) :
    gfmul standardTables (alphaPow m) b = timesAlpha^[m] b := by
  by_cases hb : b = 0
  · have hFix : timesAlpha^[m] 0#8 = 0#8 := Function.iterate_fixed (by decide) m
    simp [hb, hFix]
  · obtain ⟨n, rfl⟩ := exists_alphaPow hb
    rw [gfmul_alphaPow, alphaPow_add]

theorem gfmul_xor_right (a b c : Byte) :
    gfmul standardTables a (b ^^^ c) = gfmul standardTables a b ^^^ gfmul standardTables a c := by
  by_cases ha : a = 0
  · simp [ha]
  · obtain ⟨m, rfl⟩ := exists_alphaPow ha
    simp only [gfmul_alphaPow_left, iterate_timesAlpha_xor]

theorem gfmul_xor_left (a b c : Byte) :
    gfmul standardTables (a ^^^ b) c = gfmul standardTables a c ^^^ gfmul standardTables b c := by
  rw [gfmul_comm, gfmul_xor_right, gfmul_comm _ c a, gfmul_comm _ c b]

theorem gfmul_assoc (a b c : Byte) :
    gfmul standardTables (gfmul standardTables a b) c = gfmul standardTables a (gfmul standardTables b c) := by
  by_cases ha : a = 0
  · simp [ha]
  by_cases hb : b = 0
  · simp [hb]
  obtain ⟨m, rfl⟩ := exists_alphaPow ha
  obtain ⟨n, rfl⟩ := exists_alphaPow hb
  rw [gfmul_alphaPow, gfmul_alphaPow_left, gfmul_alphaPow_left, gfmul_alphaPow_left, Function.iterate_add_apply]

@[simp] theorem gfmul_one_left (a : Byte) : gfmul standardTables 1#8 a = a := gfmul_alphaPow_left 0 a

@[simp] theorem gfmul_one_right (a : Byte) : gfmul standardTables a 1#8 = a := by
  rw [gfmul_comm, gfmul_one_left]

/-- 1/α^n is α^(255 − n); the table's entry 255 is α^0 (R100, R111). -/
theorem gfinv_alphaPow (n : Nat) : gfinv standardTables (alphaPow n) = alphaPow (255 - n % 255) := by
  have hEntry : ∀ i ≤ 255, elem standardTables.alphaTo i = alphaPow i := by
    intro i hi
    rcases Nat.lt_or_eq_of_le hi with hi | rfl
    · rw [← elem_alphaTo_mod, Config.n, Nat.mod_eq_of_lt hi]
    · rfl
  rw [gfinv, if_neg (alphaPow_ne_zero n), toNat_indexOf_alphaPow]
  exact hEntry _ (Nat.sub_le _ _)

@[simp] theorem gfinv_one : gfinv standardTables 1#8 = 1#8 := gfinv_alphaPow 0

theorem gfmul_gfinv {a : Byte} (h : a ≠ 0) : gfmul standardTables a (gfinv standardTables a) = 1#8 := by
  obtain ⟨n, rfl⟩ := exists_alphaPow h
  rw [gfinv_alphaPow, gfmul_alphaPow]
  exact (alphaPow_eq_iff _ 0).2 (by omega)

/-- The scale d/b of the recurrence, times b, is d (R140). -/
theorem gfmul_gfinv_cancel (d : Byte) {b : Byte} (h : b ≠ 0) :
    gfmul standardTables (gfmul standardTables d (gfinv standardTables b)) b = d := by
  rw [gfmul_assoc, gfmul_comm _ _ b, gfmul_gfinv h, gfmul_one_right]

/-! ### The accumulating loops -/

theorem xorSum_eq_zero {n : Nat} {f : Nat → Byte} (h : ∀ i < n, f i = 0) : xorSum n f = 0 := by
  induction n with
  | zero => rfl
  | succ n ih => rw [xorSum_succ, ih fun i hi => h i (by omega), h n (by omega)]; rfl

/-- A loop split at m. -/
theorem xorSum_add (m n : Nat) (f : Nat → Byte) : xorSum (m + n) f = xorSum m f ^^^ xorSum n fun i => f (m + i) := by
  induction n with
  | zero => simp
  | succ n ih => rw [← Nat.add_assoc, xorSum_succ, xorSum_succ, ih, BitVec.xor_assoc]

/-- Terms that are 0 from n on add nothing. -/
theorem xorSum_of_zero_above {m n : Nat} (hmn : n ≤ m) {f : Nat → Byte} (h : ∀ i < m, n ≤ i → f i = 0) :
    xorSum m f = xorSum n f := by
  obtain ⟨k, rfl⟩ := Nat.exists_eq_add_of_le hmn
  rw [xorSum_add, xorSum_eq_zero fun i hi => h (n + i) (by omega) (by omega)]
  exact BitVec.xor_zero

/-- A loop whose only term that is not 0 is the one at p. -/
theorem xorSum_single {n p : Nat} (hp : p < n) (v : Byte) : xorSum n (fun i => if i = p then v else 0) = v := by
  rw [xorSum_of_zero_above (n := p + 1) hp fun i _ hi => if_neg (by omega), xorSum_succ,
    xorSum_eq_zero fun i hi => if_neg (by omega), if_pos rfl]
  exact BitVec.zero_xor

theorem gfmul_xorSum (c : Byte) (n : Nat) (f : Nat → Byte) :
    gfmul standardTables c (xorSum n f) = xorSum n fun i => gfmul standardTables c (f i) := by
  induction n with
  | zero => simp
  | succ n ih => rw [xorSum_succ, xorSum_succ, gfmul_xor_right, ih]

end Sys2Proof.Machine
end

section
/-! The Berlekamp–Massey recurrence (43_locator.md R140, R142): what one step leaves, and the invariant that makes SIGMA
a linear recurrence of the discrepancies. -/

namespace Sys2Proof.Machine

/-! ### The vectors of one step -/

/-- The first n turns of the update loop of R140: entry i + m takes the xor with f i. -/
def xorShifted (m : Nat) (f : Nat → Byte) (sg : List Byte) (n : Nat) : List Byte :=
  (List.range n).foldl (fun sg i => setElem sg (i + m) (elem sg (i + m) ^^^ f i)) sg

theorem updateSigma_eq_xorShifted (tb : Tables) (t : Nat) (c : Byte) (q : Recurrence) :
    updateSigma tb t c q = xorShifted q.mval (fun i => gfmul tb c (elem q.osig i)) q.sigma (t + 1 - q.mval) := rfl

theorem xorShifted_succ (m : Nat) (f : Nat → Byte) (sg : List Byte) (n : Nat) :
    xorShifted m f sg (n + 1) =
      setElem (xorShifted m f sg n) (n + m) (elem (xorShifted m f sg n) (n + m) ^^^ f n) := by
  simp [xorShifted, List.range_succ]

@[simp] theorem length_xorShifted (m : Nat) (f : Nat → Byte) (sg : List Byte) (n : Nat) :
    (xorShifted m f sg n).length = sg.length := by
  induction n with
  | zero => rfl
  | succ n ih => rw [xorShifted_succ, length_setElem, ih]

theorem elem_xorShifted (m : Nat) (f : Nat → Byte) (sg : List Byte) (n k : Nat) (h : m + n ≤ sg.length ∨ n = 0) :
    elem (xorShifted m f sg n) k = if m ≤ k ∧ k < m + n then elem sg k ^^^ f (k - m) else elem sg k := by
  induction n generalizing k with
  | zero => rw [if_neg (by omega)]; rfl
  | succ n ih =>
    have ih := fun k => ih k (by omega)
    rw [xorShifted_succ, elem_setElem _ _ _ _ (by rw [length_xorShifted]; omega), ih, ih]
    by_cases hk : k = n + m
    · subst hk
      rw [if_pos rfl, if_neg (by omega), if_pos (by omega), Nat.add_sub_cancel]
    · rw [if_neg hk]
      exact if_congr (by omega) rfl rfl

/-- The update loop, entry by entry (R140). -/
theorem elem_updateSigma (tb : Tables) (t : Nat) (c : Byte) (q : Recurrence) (ht : t < q.sigma.length) (k : Nat) :
    elem (updateSigma tb t c q) k =
      if q.mval ≤ k ∧ k ≤ t then elem q.sigma k ^^^ gfmul tb c (elem q.osig (k - q.mval)) else elem q.sigma k := by
  rw [updateSigma_eq_xorShifted, elem_xorShifted _ _ _ _ _ (by omega)]
  exact if_congr (by omega) rfl rfl

/-- The snapshot, entry by entry (R140). -/
theorem elem_snapshotOver (t : Nat) (sigma osig : List Byte) (ht : t < sigma.length) (k : Nat) :
    elem (snapshotOver t sigma osig) k = if k ≤ t then elem sigma k else elem osig k := by
  have hLength : (sigma.take (t + 1)).length = t + 1 := by rw [List.length_take]; omega
  unfold elem snapshotOver
  split
  · rw [List.getD_append _ _ _ _ (by omega), List.getD_eq_getElem?_getD, List.getElem?_take_of_lt (by omega),
      List.getD_eq_getElem?_getD]
  · rw [List.getD_append_right _ _ _ _ (by omega), hLength, List.getD_eq_getElem?_getD, List.getElem?_drop,
      List.getD_eq_getElem?_getD, Nat.add_sub_cancel' (by omega)]

/-! ### L over the run (R142) -/

theorem l_le_l_recurrenceStep (tb : Tables) (t : Nat) (disc : List Byte) (q : Recurrence) (r : Nat) :
    q.l ≤ (recurrenceStep tb t disc q r).l := by
  obtain ⟨-, h⟩ | ⟨-, hl, h⟩ | ⟨-, -, h⟩ := recurrenceStep_cases tb t disc q r
  · rw [h]
  · rw [h]; show q.l ≤ r - q.l; omega
  · rw [h]

theorem recurrenceAfter_l_le (tb : Tables) (t : Nat) (disc : List Byte) (len n : Nat) :
    (recurrenceAfter tb t disc len n).l ≤ n := by
  induction n with
  | zero => exact Nat.le_refl 0
  | succ n ih =>
    rw [recurrenceAfter_succ]
    obtain ⟨-, h⟩ | ⟨-, -, h⟩ | ⟨-, -, h⟩ :=
      recurrenceStep_cases tb t disc (recurrenceAfter tb t disc len n) (n + 1)
    · rw [h]; exact Nat.le_succ_of_le ih
    · rw [h]; exact Nat.sub_le _ _
    · rw [h]; exact Nat.le_succ_of_le ih

/-! ### Vectors as taps over the discrepancy sequence -/

/-- The sum of SG[i]·DISC[n − i] over i in 0..t: 0 at every n where SG is a recurrence of DISC. -/
def tapSum (t : Nat) (sg disc : List Byte) (n : Nat) : Byte :=
  xorSum (t + 1) fun i => gfmul standardTables (elem sg i) (elem disc (n - i))

/-- The discrepancy of a step is the tap sum of SIGMA, which has no coefficient above L (R140). -/
theorem stepDiscrepancy_eq_tapSum (t : Nat) (disc : List Byte) (q : Recurrence) (r : Nat)
    (hOne : elem q.sigma 0 = 1) (hDegree : ∀ i, q.l < i → elem q.sigma i = 0) :
    stepDiscrepancy standardTables t disc q r = tapSum t q.sigma disc r := by
  have hTail : ∀ k < t, min q.l t ≤ k → gfmul standardTables (elem q.sigma (k + 1)) (elem disc (r - (k + 1))) = 0 := by
    intro k hk hmin
    rw [hDegree (k + 1) (by omega)]
    exact gfmul_zero_left _ _
  rw [stepDiscrepancy, tapSum, Nat.add_comm t 1, xorSum_add, ← xorSum_of_zero_above (Nat.min_le_right _ _) hTail]
  have hHead : xorSum 1 (fun i => gfmul standardTables (elem q.sigma i) (elem disc (r - i))) = elem disc r := by
    simp [xorSum_succ, hOne]
  simp only [hHead, Nat.add_comm 1]

/-- What the update loop adds to term i of a tap sum. -/
def shiftedTerm (disc : List Byte) (c : Byte) (q : Recurrence) (n i : Nat) : Byte :=
  if q.mval ≤ i then gfmul standardTables (gfmul standardTables c (elem q.osig (i - q.mval))) (elem disc (n - i))
  else 0#8

theorem xorSum_shiftedTerm {t : Nat} (disc : List Byte) (c : Byte) (q : Recurrence) (n : Nat) (hm : q.mval ≤ t + 1) :
    xorSum (t + 1) (shiftedTerm disc c q n) = gfmul standardTables c
      (xorSum (t + 1 - q.mval) fun i => gfmul standardTables (elem q.osig i) (elem disc (n - q.mval - i))) := by
  have hBelow : xorSum q.mval (shiftedTerm disc c q n) = 0#8 := xorSum_eq_zero fun i hi => if_neg (by omega)
  have hShift : ∀ i < t + 1 - q.mval, shiftedTerm disc c q n (q.mval + i) =
      gfmul standardTables c (gfmul standardTables (elem q.osig i) (elem disc (n - q.mval - i))) := by
    intro i _
    rw [shiftedTerm, if_pos (Nat.le_add_right _ _), Nat.add_sub_cancel_left, gfmul_assoc, Nat.sub_sub]
  conv_lhs => rw [← Nat.add_sub_cancel' hm]
  rw [xorSum_add, hBelow, BitVec.zero_xor, xorSum_congr hShift, gfmul_xorSum]

/-- The tap sum after the update loop, where the loop cuts off no coefficient of OSIG (R140). -/
theorem tapSum_updateSigma (t : Nat) (disc : List Byte) (c : Byte) (q : Recurrence) (n : Nat)
    (hLength : t < q.sigma.length) (hm : q.mval ≤ t + 1) (hFits : ∀ i, t < i + q.mval → elem q.osig i = 0) :
    tapSum t (updateSigma standardTables t c q) disc n =
      tapSum t q.sigma disc n ^^^ gfmul standardTables c (tapSum t q.osig disc (n - q.mval)) := by
  have hTerm : ∀ i < t + 1,
      gfmul standardTables (elem (updateSigma standardTables t c q) i) (elem disc (n - i)) =
        gfmul standardTables (elem q.sigma i) (elem disc (n - i)) ^^^ shiftedTerm disc c q n i := by
    intro i hi
    rw [elem_updateSigma _ _ _ _ hLength, shiftedTerm]
    by_cases him : q.mval ≤ i
    · rw [if_pos ⟨him, by omega⟩, if_pos him, gfmul_xor_left]
    · rw [if_neg (by omega), if_neg him, BitVec.xor_zero]
  have hTail : ∀ i < t + 1, t + 1 - q.mval ≤ i →
      gfmul standardTables (elem q.osig i) (elem disc (n - q.mval - i)) = 0 := by
    intro i _ hi
    rw [hFits i (by omega)]
    exact gfmul_zero_left _ _
  rw [tapSum, xorSum_congr hTerm, xorSum_xor, xorSum_shiftedTerm _ _ _ _ hm, tapSum, tapSum,
    xorSum_of_zero_above (Nat.sub_le _ _) hTail]

theorem tapSum_snapshotOver (t : Nat) (sigma osig : List Byte) (h : t < sigma.length) (disc : List Byte) (n : Nat) :
    tapSum t (snapshotOver t sigma osig) disc n = tapSum t sigma disc n :=
  xorSum_congr fun i hi => by rw [elem_snapshotOver _ _ _ h, if_pos (Nat.le_of_lt_succ hi)]

/-! ### The invariant of the recurrence -/

/-- OSIG after r steps: the SIGMA of before the last change of L, at step r + 1 − MVAL. Its length then was
r + 1 − MVAL − L and B its discrepancy at that step, so it is a recurrence of that length for the entries before. -/
structure PreviousInv (t : Nat) (disc : List Byte) (r : Nat) (q : Recurrence) : Prop where
  mval_pos : 1 ≤ q.mval
  mval_add_l_le : q.mval + q.l ≤ r + 1
  b_ne_zero : q.b ≠ 0
  osig_above : ∀ i, r + 1 < i + q.mval + q.l → elem q.osig i = 0
  osig_taps : ∀ k, r + 1 < k + q.mval + q.l → k + q.mval ≤ r + 1 →
    tapSum t q.osig disc k = if k + q.mval = r + 1 then q.b else 0

/-- SIGMA after r steps with L ≤ T: a recurrence of length L for DISC[1..r]. -/
structure LocatorInv (t : Nat) (disc : List Byte) (r : Nat) (q : Recurrence) : Prop extends PreviousInv t disc r q where
  length : t < q.sigma.length
  sigma_zero : elem q.sigma 0 = 1
  sigma_above : ∀ i, q.l < i → elem q.sigma i = 0
  sigma_taps : ∀ n, q.l < n → n ≤ r → tapSum t q.sigma disc n = 0

theorem locatorInv_start (t : Nat) (disc : List Byte) {len : Nat} (h : t ≤ len) :
    LocatorInv t disc 0 (Recurrence.start (len + 1)) where
  length := by simp [Recurrence.start]; omega
  mval_pos := Nat.le_refl 1
  mval_add_l_le := Nat.le_refl 1
  b_ne_zero := by simp [Recurrence.start]
  sigma_zero := elem_unitVector len 0
  sigma_above i hi := (elem_unitVector len i).trans (if_neg (Nat.ne_of_gt hi))
  osig_above i hi := (elem_unitVector len i).trans (if_neg (by simp [Recurrence.start] at hi; omega))
  sigma_taps n hn hle := by simp [Recurrence.start] at hn; omega
  osig_taps k hk hle := by simp [Recurrence.start] at hk hle; omega

section
variable {t : Nat} {disc : List Byte} {r : Nat} {q : Recurrence}

/-- A step that keeps OSIG, L and B counts MVAL up, and OSIG stays what it was. -/
theorem PreviousInv.mval_succ (h : PreviousInv t disc r q) (sigma : List Byte) :
    PreviousInv t disc (r + 1) { q with sigma := sigma, mval := q.mval + 1 } where
  mval_pos := Nat.le_add_left 1 _
  mval_add_l_le := by
    have := h.mval_add_l_le
    show q.mval + 1 + q.l ≤ r + 1 + 1
    omega
  b_ne_zero := h.b_ne_zero
  osig_above i (hi : r + 1 + 1 < i + (q.mval + 1) + q.l) := h.osig_above i (by omega)
  osig_taps k (hk : r + 1 + 1 < k + (q.mval + 1) + q.l) (hle : k + (q.mval + 1) ≤ r + 1 + 1) :=
    (h.osig_taps k (by omega) (by omega)).trans
      (if_congr (show k + q.mval = r + 1 ↔ k + (q.mval + 1) = r + 1 + 1 by omega) rfl rfl)

/-- A step whose discrepancy is 0 extends the recurrence by one entry. -/
theorem LocatorInv.of_zero (h : LocatorInv t disc r q) (hd : stepDiscrepancy standardTables t disc q (r + 1) = 0) :
    LocatorInv t disc (r + 1) { q with mval := q.mval + 1 } where
  toPreviousInv := h.mval_succ q.sigma
  length := h.length
  sigma_zero := h.sigma_zero
  sigma_above := h.sigma_above
  sigma_taps n hn hle := by
    rcases Nat.le_succ_iff.1 hle with hle | rfl
    · exact h.sigma_taps n hn hle
    · rw [← stepDiscrepancy_eq_tapSum t disc q _ h.sigma_zero h.sigma_above]; exact hd

/-- SIGMA after the update loop of step r + 1: the coefficients above the new length l' are 0, and the taps vanish from
there to r + 1. -/
theorem LocatorInv.updated (h : LocatorInv t disc r q) {l' : Nat} (hl : q.l ≤ l') (hl' : r + 1 ≤ l' + q.l)
    (ht : l' ≤ t) :
    let sigma' := updateSigma standardTables t
      (gfmul standardTables (stepDiscrepancy standardTables t disc q (r + 1)) (gfinv standardTables q.b)) q
    elem sigma' 0 = 1 ∧ (∀ i, l' < i → elem sigma' i = 0) ∧
      ∀ n, l' < n → n ≤ r + 1 → tapSum t sigma' disc n = 0 := by
  have hm := h.mval_pos
  have hml := h.mval_add_l_le
  refine ⟨?_, fun i hi => ?_, fun n hn hle => ?_⟩
  · rw [elem_updateSigma _ _ _ _ h.length, if_neg (by omega)]
    exact h.sigma_zero
  · rw [elem_updateSigma _ _ _ _ h.length, h.sigma_above i (by omega)]
    split
    · rw [h.osig_above _ (by omega)]; simp
    · rfl
  · rw [tapSum_updateSigma _ _ _ _ _ h.length (by omega) fun i hi => h.osig_above i (by omega),
      h.osig_taps _ (by omega) (by omega)]
    rcases Nat.le_succ_iff.1 hle with hle | rfl
    · rw [h.sigma_taps n (by omega) hle, if_neg (by omega)]; simp
    · rw [if_pos (by omega), gfmul_gfinv_cancel _ h.b_ne_zero,
        stepDiscrepancy_eq_tapSum t disc q _ h.sigma_zero h.sigma_above]
      exact BitVec.xor_self

/-- A step that changes L: SIGMA becomes OSIG, and the discrepancy is where its recurrence breaks. -/
theorem LocatorInv.of_grown (h : LocatorInv t disc r q) (hd : stepDiscrepancy standardTables t disc q (r + 1) ≠ 0)
    (hl : 2 * q.l ≤ r) (ht : r + 1 - q.l ≤ t) :
    LocatorInv t disc (r + 1)
      { sigma := updateSigma standardTables t
          (gfmul standardTables (stepDiscrepancy standardTables t disc q (r + 1)) (gfinv standardTables q.b)) q
        osig := snapshotOver t q.sigma q.osig, l := r + 1 - q.l, mval := 1
        b := stepDiscrepancy standardTables t disc q (r + 1) } := by
  have hm := h.mval_pos
  obtain ⟨hZero, hAbove, hTaps⟩ := h.updated (l' := r + 1 - q.l) (by omega) (by omega) ht
  exact {
    length := h.length.trans_eq (length_updateSigma ..).symm
    mval_pos := Nat.le_refl 1
    mval_add_l_le := show 1 + (r + 1 - q.l) ≤ r + 1 + 1 by omega
    b_ne_zero := hd
    sigma_zero := hZero
    sigma_above := hAbove
    osig_above := fun i (hi : r + 1 + 1 < i + 1 + (r + 1 - q.l)) => by
      rw [elem_snapshotOver _ _ _ h.length]
      split
      · exact h.sigma_above i (by omega)
      · exact h.osig_above i (by omega)
    sigma_taps := hTaps
    osig_taps := fun k (hk : r + 1 + 1 < k + 1 + (r + 1 - q.l)) (hle : k + 1 ≤ r + 1 + 1) => by
      rw [tapSum_snapshotOver _ _ _ h.length disc]
      rcases Nat.le_succ_iff.1 (Nat.le_of_succ_le_succ hle) with hle | rfl
      · rw [h.sigma_taps k (by omega) hle, if_neg (show ¬ k + 1 = r + 1 + 1 by omega)]
      · rw [if_pos rfl, stepDiscrepancy_eq_tapSum t disc q _ h.sigma_zero h.sigma_above] }

/-- A step that corrects SIGMA and keeps L. -/
theorem LocatorInv.of_corrected (h : LocatorInv t disc r q) (hl : r + 1 ≤ 2 * q.l) (ht : q.l ≤ t) :
    LocatorInv t disc (r + 1)
      { q with
        sigma := updateSigma standardTables t
          (gfmul standardTables (stepDiscrepancy standardTables t disc q (r + 1)) (gfinv standardTables q.b)) q
        mval := q.mval + 1 } := by
  obtain ⟨hZero, hAbove, hTaps⟩ := h.updated (l' := q.l) (Nat.le_refl _) (by omega) ht
  exact { h.mval_succ _ with
    length := h.length.trans_eq (length_updateSigma ..).symm
    sigma_zero := hZero
    sigma_above := hAbove
    sigma_taps := hTaps }

theorem LocatorInv.step (h : LocatorInv t disc r q)
    (ht : (recurrenceStep standardTables t disc q (r + 1)).l ≤ t) :
    LocatorInv t disc (r + 1) (recurrenceStep standardTables t disc q (r + 1)) := by
  obtain ⟨hd, hq⟩ | ⟨hd, hl, hq⟩ | ⟨-, hl, hq⟩ := recurrenceStep_cases standardTables t disc q (r + 1)
  · rw [hq]; exact h.of_zero hd
  · rw [hq] at ht ⊢; exact h.of_grown hd hl ht
  · rw [hq] at ht ⊢; exact h.of_corrected (by omega) ht

end

/-- Every run of the recurrence that ends with L ≤ T meets the invariant, since L only grows. -/
theorem locatorInv_recurrenceAfter (t : Nat) (disc : List Byte) {len : Nat} (h : t ≤ len) (r : Nat)
    (hl : (recurrenceAfter standardTables t disc (len + 1) r).l ≤ t) :
    LocatorInv t disc r (recurrenceAfter standardTables t disc (len + 1) r) := by
  induction r with
  | zero => exact locatorInv_start t disc h
  | succ r ih =>
    rw [recurrenceAfter_succ] at hl ⊢
    exact (ih ((l_le_l_recurrenceStep ..).trans hl)).step hl

/-! ### BMA on a constructed block -/

/-- The registers when BMA on a constructed block ends (R140). -/
def finalRecurrence (s : State) : Recurrence :=
  recurrenceAfter standardTables s.t.toNat s.disc (s.par.tmax + 1) (2 * s.t.toNat)

theorem runBm_eq_finalRecurrence {s : State} (h : s.tables = standardTables) :
    runBm s = withRecurrence (finalRecurrence s) s := by
  rw [runBm, h, finalRecurrence]

section
variable {s : State} (h : s.Ready)
include h

theorem State.Ready.tables_eq : s.tables = standardTables := h.inv.tables_built h.tv

theorem State.Ready.t_pos : 1 ≤ s.t.toNat := (h.inv.tv_iff.1 h.tv).1

theorem State.Ready.t_le_tmax : s.t.toNat ≤ s.par.tmax := (h.inv.tv_iff.1 h.tv).2

/-- The number of steps of the recurrence fits 8 bits (R9). -/
theorem State.Ready.two_t_lt : 2 * s.t.toNat < 256 := by
  have := h.t_le_tmax
  have := s.par.tmax_bounds
  omega

/-- The L that BMA stores is the L of the recurrence (R34). -/
theorem State.Ready.toNat_runBm_l : (runBm s).l.toNat = (finalRecurrence s).l := by
  have hle : (finalRecurrence s).l ≤ 2 * s.t.toNat := recurrenceAfter_l_le ..
  rw [runBm_eq_finalRecurrence h.tables_eq, withRecurrence_l, BitVec.toNat_ofNat]
  exact Nat.mod_eq_of_lt (hle.trans_lt h.two_t_lt)

theorem State.Ready.locatorInv_finalRecurrence (hl : (finalRecurrence s).l ≤ s.t.toNat) :
    LocatorInv s.t.toNat s.disc (2 * s.t.toNat) (finalRecurrence s) :=
  locatorInv_recurrenceAfter _ _ h.t_le_tmax _ hl

end

/-- Settles O40: the invariant at the end of the run says that the taps of SIGMA sum to 0 at every r above L, and with
SIGMA[0] = 1 that sum is the discrepancy of step r, so DISC[r] is the sum of the other terms. -/
theorem locatorIsARecurrenceOfTheDiscrepancies : Obligations.LocatorIsARecurrenceOfTheDiscrepancies := by
  unfold Obligations.LocatorIsARecurrenceOfTheDiscrepancies
  intro s h
  refine ⟨respond (zext16 (runBm s).l) (runBm s), whenReady_of_tv h.tv _, fun hl r hlr hr => ?_⟩
  rw [respond_l, h.toNat_runBm_l] at hl hlr ⊢
  have hInv := h.locatorInv_finalRecurrence hl
  have hStep : stepDiscrepancy standardTables s.t.toNat s.disc (finalRecurrence s) r = 0 := by
    rw [stepDiscrepancy_eq_tapSum _ _ _ _ hInv.sigma_zero hInv.sigma_above, hInv.sigma_taps r hlr hr]
  rw [stepDiscrepancy, Nat.min_eq_left hl] at hStep
  rw [respond_sigma, runBm_eq_finalRecurrence h.tables_eq, withRecurrence_sigma, xorUpTo_eq_xorSum]
  exact BitVec.xor_eq_zero_iff.1 hStep

end Sys2Proof.Machine
end

section
/-! RECOVER on data with one flipped bit (44_chien_corrector.md R153, R155): the discrepancies are the powers of one
locator, the recurrence finds it in its first step and keeps it, and the search marks its position alone. -/

namespace Sys2Proof.Machine

/-! ### The discrepancies of one flipped bit (R130, R132, R133) -/

theorem elem_computeSyndromes (s : State) (ht : s.t.toNat ≤ s.par.tmax) (j : Nat) :
    elem (computeSyndromes s).syn j = if 1 ≤ j ∧ j ≤ 2 * s.t.toNat then syndrome s j else 0 := by
  rw [computeSyndromes, elem_map_range]
  split
  · rfl
  · rw [if_neg (by omega)]

/-- DISC after DISC or RECOVER on the state s, entry by entry (R133). -/
theorem elem_discrepancies (s : State) (ht : s.t.toNat ≤ s.par.tmax) (i : Nat) :
    elem (discrepancies s) i = if 1 ≤ i ∧ i ≤ lastCompared s then elem s.syn i ^^^ readRef s i else 0 := by
  have hLast : lastCompared s ≤ 2 * s.t.toNat := by
    unfold lastCompared
    split
    · exact Nat.zero_le _
    · exact Nat.min_le_left _ _
  rw [discrepancies, elem_map_range]
  split
  · rfl
  · rw [if_neg (by omega)]

theorem zeroDiscrepancy_eq_false {t : Nat} {disc : List Byte} (i : Nat) (hPos : 1 ≤ i) (hLe : i ≤ 2 * t)
    (h : elem disc i ≠ 0) : zeroDiscrepancy t disc = false := by
  obtain ⟨k, rfl⟩ := Nat.exists_eq_add_of_le' hPos
  exact List.all_eq_false.2 ⟨k, List.mem_range.2 hLe, by simpa [elem] using h⟩

/-- Flipping one bit of the data adds the powers of its position to the syndromes (R132). -/
theorem syndrome_of_bitFlipped {o s : State} {p : Nat} (hs : s.tables = standardTables)
    (ho : o.tables = standardTables) (hLen : s.dlen = o.dlen) (hp : p < 8 * s.dlen.toNat)
    (hBits : ∀ q < 8 * s.dlen.toNat, bitAt s q = (bitAt o q != decide (q = p))) (j : Nat) :
    syndrome s j = syndrome o j ^^^ alphaPow (j * p) := by
  have hTerm : ∀ q < 8 * s.dlen.toNat, (if bitAt s q then elem s.tables.alphaTo (j * q % Config.n) else 0) =
      (if bitAt o q then elem o.tables.alphaTo (j * q % Config.n) else 0) ^^^
        if q = p then alphaPow (j * p) else 0 := by
    intro q hq
    rw [hBits q hq, hs, ho, elem_alphaTo_mod]
    by_cases hqp : q = p
    · subst hqp
      cases bitAt o q <;> simp
    · simp [hqp]
  rw [syndrome, xorSum_congr hTerm, xorSum_xor, xorSum_single hp, syndrome, hLen]

/-- The state after RECOVER's steps SYND and DISC (R153). -/
def compared (s : State) : State := computeDiscrepancy (computeSyndromes s)

theorem elem_disc_compared_of_bitFlipped {o s : State} {p : Nat} (hs : s.Ready) (ho : o.Ready) (hT : s.t = o.t)
    (hLen : s.dlen = o.dlen) (hRlen : s.rlen.toNat = 2 * s.t.toNat + 1)
    (hRef : ∀ i, 1 ≤ i → i ≤ 2 * s.t.toNat → readRef s i = elem (computeSyndromes o).syn i)
    (hp : p < 8 * s.dlen.toNat) (hBits : ∀ q < 8 * s.dlen.toNat, bitAt s q = (bitAt o q != decide (q = p)))
    (i : Nat) (hPos : 1 ≤ i) (hLe : i ≤ 2 * s.t.toNat) :
    elem (compared s).disc i = alphaPow (i * p) := by
  have hLast : lastCompared (computeSyndromes s) = 2 * s.t.toNat := by
    rw [← comparedUpTo_eq_lastCompared, Stated.comparedUpTo, computeSyndromes_rlen, computeSyndromes_t, hRlen,
      if_neg (Nat.succ_ne_zero _), Nat.add_sub_cancel, Nat.min_self]
  have hRead : readRef (computeSyndromes s) i = syndrome o i := by
    refine (readRef_congr rfl rfl i).trans ((hRef i hPos hLe).trans ?_)
    rw [elem_computeSyndromes o ho.t_le_tmax, ← hT, if_pos ⟨hPos, hLe⟩]
  rw [compared, computeDiscrepancy_disc, elem_discrepancies (computeSyndromes s) hs.t_le_tmax, hLast,
    if_pos ⟨hPos, hLe⟩, elem_computeSyndromes s hs.t_le_tmax,
    if_pos ⟨hPos, hLe⟩, hRead, syndrome_of_bitFlipped hs.tables_eq ho.tables_eq hLen hp hBits,
    BitVec.xor_comm (syndrome o i), BitVec.xor_assoc, BitVec.xor_self]
  exact BitVec.xor_zero

/-! ### The recurrence on the powers of one locator -/

/-- L = 1 and SIGMA = 1 + α^p·x. -/
structure LocatesOne (p : Nat) (q : Recurrence) : Prop where
  l_eq : q.l = 1
  sigma_zero : elem q.sigma 0 = 1
  sigma_one : elem q.sigma 1 = alphaPow p

section
variable {t p : Nat} {disc : List Byte} (ht : 1 ≤ t) (hDisc : ∀ i, 1 ≤ i → i ≤ 2 * t → elem disc i = alphaPow (i * p))
include ht hDisc

/-- Step 1: the discrepancy is α^p, with L = 0 and B = 1. -/
theorem locatesOne_firstStep {len : Nat} (hLen : t ≤ len) :
    LocatesOne p (recurrenceStep standardTables t disc (Recurrence.start (len + 1)) 1) := by
  have hd : stepDiscrepancy standardTables t disc (Recurrence.start (len + 1)) 1 = alphaPow p := by
    rw [stepDiscrepancy, hDisc 1 (Nat.le_refl 1) (by omega)]
    simp [Recurrence.start]
  have hSigma := elem_updateSigma standardTables t
    (gfmul standardTables (alphaPow p) (gfinv standardTables 1)) (Recurrence.start (len + 1))
    (by simp [Recurrence.start]; omega)
  obtain ⟨hZero, -⟩ | ⟨-, -, hq⟩ | ⟨-, hl, -⟩ :=
    recurrenceStep_cases standardTables t disc (Recurrence.start (len + 1)) 1
  · exact absurd (hd.symm.trans hZero) (alphaPow_ne_zero p)
  · rw [hq, hd]
    exact {
      l_eq := rfl
      sigma_zero := (hSigma 0).trans (elem_unitVector len 0)
      sigma_one := by
        refine (hSigma 1).trans ((if_pos ⟨Nat.le_refl 1, ht⟩).trans ?_)
        simp [Recurrence.start, elem_unitVector] }
  · exact absurd (Nat.zero_le _) hl

/-- A later step finds the discrepancy 0. -/
theorem LocatesOne.step {q : Recurrence} (h : LocatesOne p q) {r : Nat} (hr : 1 ≤ r) (hle : r + 1 ≤ 2 * t) :
    LocatesOne p (recurrenceStep standardTables t disc q (r + 1)) := by
  have hd : stepDiscrepancy standardTables t disc q (r + 1) = 0 := by
    rw [stepDiscrepancy, h.l_eq, Nat.min_eq_left ht, xorSum_succ, xorSum_zero, h.sigma_one,
      hDisc (r + 1) (by omega) hle, Nat.add_sub_cancel, hDisc r hr (by omega), gfmul_alphaPow,
      Nat.succ_mul, Nat.add_comm p]
    simp
  obtain ⟨-, hq⟩ | ⟨hne, -⟩ | ⟨hne, -⟩ := recurrenceStep_cases standardTables t disc q (r + 1)
  · rw [hq]; exact ⟨h.l_eq, h.sigma_zero, h.sigma_one⟩
  · exact absurd hd hne
  · exact absurd hd hne

theorem locatesOne_recurrenceAfter {len : Nat} (hLen : t ≤ len) (n : Nat) (hn : n + 1 ≤ 2 * t) :
    LocatesOne p (recurrenceAfter standardTables t disc (len + 1) (n + 1)) := by
  induction n with
  | zero => exact locatesOne_firstStep ht hDisc hLen
  | succ n ih =>
    rw [recurrenceAfter_succ]
    exact (ih (by omega)).step ht hDisc (Nat.le_add_left 1 n) hn

end

/-! ### The search (R150, R151) -/

theorem elem_alphaTo_chienExponent (j i : Nat) :
    elem standardTables.alphaTo (chienExponent .reciprocal j i) = alphaPow (255 - j * i % 255) := rfl

/-- 1 + α^p·α^(−i) is 0 at i = p and nowhere else. -/
theorem locatorAt_eq_zero_iff {s : State} {p i : Nat} (hTables : s.tables = standardTables) (ht : 1 ≤ s.t.toNat)
    (hExp : s.par.chienExp = .reciprocal) (hl : s.l = 1) (hZero : elem s.sigma 0 = 1)
    (hOne : elem s.sigma 1 = alphaPow p) (hp : p < 255) (hi : i < 255) : locatorAt s i = 0 ↔ i = p := by
  have hCount : min s.l.toNat s.t.toNat + 1 = 2 := by rw [hl]; exact congrArg (· + 1) (Nat.min_eq_left ht)
  have hValue : locatorAt s i = alphaPow 0 ^^^ alphaPow (p + (255 - i)) := by
    rw [locatorAt, hCount, hTables, hExp, xorSum_succ, xorSum_succ, xorSum_zero, hZero, hOne,
      elem_alphaTo_chienExponent, elem_alphaTo_chienExponent, gfmul_alphaPow, Nat.zero_mul, Nat.one_mul,
      Nat.mod_eq_of_lt hi]
    rfl
  rw [hValue]
  refine BitVec.xor_eq_zero_iff.trans ((alphaPow_eq_iff _ _).trans ?_)
  omega

theorem markedPositions_eq_singleton {s : State} {p : Nat} (hp : p < min 255 (8 * s.dlen.toNat))
    (h : ∀ i < 255, locatorAt s i = 0 ↔ i = p) : markedPositions s = [p] := by
  have hMem : ∀ i, i ∈ markedPositions s ↔ i = p := fun i => by
    rw [mem_markedPositions]
    exact ⟨fun ⟨hi, hz⟩ => (h i (by simp [Config.n] at hi; omega)).1 hz,
      fun e => e ▸ ⟨hp, (h p (by omega)).2 rfl⟩⟩
  have hNodup : (markedPositions s).Nodup := List.nodup_range.filter _
  exact List.perm_singleton.1
    ((List.perm_ext_iff_of_nodup hNodup (List.nodup_singleton p)).2 fun i => (hMem i).trans List.mem_singleton.symm)

/-- One marked position: its bit is flipped, and counted. -/
theorem runChien_of_marked {s : State} {p : Nat} (h : markedPositions s = [p]) :
    runChien s = { flipBit s p with flipcnt := 1 } := by
  rw [runChien, h]; rfl

/-! ### RECOVER -/

/-- A byte is its eight bits of the data stream (R62). -/
theorem readDbuf_eq_of_bitAt {s o : State} {k : Nat} (h : ∀ q, q / 8 = k → bitAt s q = bitAt o q) :
    readDbuf s k = readDbuf o k := by
  apply BitVec.eq_of_getLsbD_eq
  intro i hi
  have hq := h (8 * k + (7 - i)) (by omega)
  unfold bitAt at hq
  rwa [show (8 * k + (7 - i)) / 8 = k by omega, show 7 - (8 * k + (7 - i)) % 8 = i by omega] at hq

theorem bitAt_congr {s t : State} (hm : t.dbuf = s.dbuf) (hr : t.resets = s.resets) (q : Nat) :
    bitAt t q = bitAt s q := by
  rw [bitAt, readDbuf_congr hm hr, ← bitAt]

theorem runRecover_of_discrepancy {s : State} (h : (compared s).nodisc = false) :
    runRecover s = runChien (runBm (compared s)) := by
  unfold runRecover
  exact if_neg (by rw [← compared, h]; exact Bool.false_ne_true)

/-- When the discrepancies are the powers of one locator, BMA finds it and CHIEN marks its position alone. -/
theorem runRecover_of_powers {s : State} {p : Nat} (h : s.Ready) (hExp : s.par.chienExp = .reciprocal)
    (hp : p < min 255 (8 * s.dlen.toNat))
    (hDisc : ∀ i, 1 ≤ i → i ≤ 2 * s.t.toNat → elem (compared s).disc i = alphaPow (i * p)) :
    (compared s).nodisc = false ∧ (runBm (compared s)).l = 1 ∧
      runRecover s = { flipBit (runBm (compared s)) p with flipcnt := 1 } := by
  have ht := h.t_pos
  have hNodisc : (compared s).nodisc = false := by
    refine zeroDiscrepancy_eq_false 1 (Nat.le_refl 1) (show 1 ≤ 2 * s.t.toNat by omega) ?_
    exact (hDisc 1 (Nat.le_refl 1) (by omega)).trans_ne (alphaPow_ne_zero _)
  have hBm : runBm (compared s) = withRecurrence (finalRecurrence (compared s)) (compared s) :=
    runBm_eq_finalRecurrence h.tables_eq
  have hFinal : LocatesOne p (finalRecurrence (compared s)) := by
    have hRun := locatesOne_recurrenceAfter ht hDisc h.t_le_tmax (2 * s.t.toNat - 1) (by omega)
    rwa [Nat.sub_add_cancel (by omega)] at hRun
  have hl : (runBm (compared s)).l = 1 := by
    rw [hBm, withRecurrence_l, hFinal.l_eq]; rfl
  have hMarked : markedPositions (runBm (compared s)) = [p] :=
    markedPositions_eq_singleton hp fun i hi =>
      locatorAt_eq_zero_iff h.tables_eq ht hExp hl (by rw [hBm]; exact hFinal.sigma_zero)
        (by rw [hBm]; exact hFinal.sigma_one) (by omega) hi
  exact ⟨hNodisc, hl, (runRecover_of_discrepancy hNodisc).trans (runChien_of_marked hMarked)⟩

/-- Settles O47: the discrepancies are the powers of α^p, so RECOVER flips bit p of s and no other, and p is the bit in
which s differs from the original. -/
theorem singleBitErrorIsCorrected : Obligations.SingleBitErrorIsCorrected := by
  unfold Obligations.SingleBitErrorIsCorrected
  intro o o1 s p ho hs hSynd hExp hT hLen hRlen hRef hp hBits
  obtain rfl : o1 = respond 0 (computeSyndromes o) := by
    obtain ⟨-, h⟩ | ⟨hNot, -⟩ := whenReady_cases hSynd
    · exact h
    · rw [ho.tv] at hNot; cases hNot
  have hDisc := elem_disc_compared_of_bitFlipped hs ho hT hLen hRlen hRef (lt_min_iff.1 hp).2 hBits
  obtain ⟨hNodisc, hl, hRun⟩ := runRecover_of_powers hs hExp hp hDisc
  refine ⟨respond (recoverValue (runRecover s)) (runRecover s), whenReady_of_tv hs.tv _, fun k hk => ?_, ?_, ?_, ?_⟩
  · refine readDbuf_eq_of_bitAt fun q hq => ?_
    calc bitAt (respond (recoverValue (runRecover s)) (runRecover s)) q
        = bitAt (flipBit (runBm (compared s)) p) q :=
          bitAt_congr (by rw [respond_dbuf, hRun]) (by rw [respond_resets, hRun]) q
      _ = (bitAt s q != decide (q = p)) := by
          rw [bitAt_flipBit, bitAt_congr (s := s) (t := runBm (compared s)) rfl rfl]
      _ = ((bitAt o q != decide (q = p)) != decide (q = p)) :=
          congrArg (· != decide (q = p)) (hBits q (by omega))
      _ = bitAt o q := by cases decide (q = p) <;> simp
  · rw [respond_nodisc, hRun]; exact hNodisc
  · rw [respond_flipcnt, hRun]
  · rw [respond_l, hRun]; exact hl

end Sys2Proof.Machine
end

section
/-! What one command and one step do: a command is rejected with the cause of R202 and leaves what R200 says, or
executes, and then its response and its effect are all that changes. Every statement about all commands or all steps is
read off here. -/

namespace Sys2Proof.Machine

open Sys2Proof.Stated

/-! ### The outcome of a command (R18, R200, R202) -/

/-- The cause with which a failed check rejects. -/
def causeUnless (ok : Bool) (c : Cause) : Option Cause := if ok then none else some c

/-- The cause with which a command is rejected in this state, if any: the columns of R202 but ILLEGAL. -/
def rejectionOf (s : State) : Instr → Option Cause
  | .nop => none
  | .clrerr => none
  | .init t => causeUnless (isCapacity s t) .badCfg
  | .gfmul _ _ => causeUnless s.tv .notInit
  | .gfinv _ => causeUnless s.tv .notInit
  | .gflog _ => causeUnless s.tv .notInit
  | .gfexp _ => causeUnless s.tv .notInit
  | .synd => causeUnless s.tv .notInit
  | .disc => causeUnless s.tv .notInit
  | .bma => causeUnless s.tv .notInit
  | .chien => causeUnless s.tv .notInit
  | .recover => causeUnless s.tv .notInit
  | .wrdata addr _ => causeUnless (inDbuf s addr) .range
  | .rddata addr => causeUnless (inDbuf s addr) .range
  | .setdlen len => causeUnless (isDlen s len) .range
  | .wrref idx _ => causeUnless (inSyndromes s idx) .range
  | .rdref idx => causeUnless (inSyndromes s idx) .range
  | .setrlen len => causeUnless (isRlen s len) .range
  | .rdsyn idx => causeUnless (inSyndromes s idx) .range
  | .rddisc idx => causeUnless (inSyndromes s idx) .range
  | .rdsig idx => causeUnless (inLocator s idx) .range
  | .rdosig idx => causeUnless (inLocator s idx) .range
  | .rdreg reg => causeUnless (regView s reg).isSome .range

/-- The state a command leaves when it executes, but for its response. -/
def effectOf (s : State) : Instr → State
  | .init t => construct t s
  | .clrerr => clearRecord s
  | .synd => computeSyndromes s
  | .disc => computeDiscrepancy s
  | .bma => runBm s
  | .chien => runChien s
  | .recover => runRecover s
  | .wrdata addr byte => writeDbuf addr.toNat byte s
  | .setdlen len => setDlen len s
  | .wrref idx v => writeRef idx.toNat v s
  | .setrlen len => setRlen len s
  | .nop => s
  | .gfmul _ _ => s
  | .gfinv _ => s
  | .gflog _ => s
  | .gfexp _ => s
  | .rddata _ => s
  | .rdref _ => s
  | .rdsyn _ => s
  | .rddisc _ => s
  | .rdsig _ => s
  | .rdosig _ => s
  | .rdreg _ => s

@[simp] theorem causeUnless_eq_none {ok : Bool} {c : Cause} : causeUnless ok c = none ↔ ok = true := by
  cases ok <;> simp [causeUnless]

@[simp] theorem causeUnless_eq_some {ok : Bool} {c c' : Cause} :
    causeUnless ok c = some c' ↔ ok = false ∧ c = c' := by
  cases ok <;> simp [causeUnless]

theorem whenOperand_of_rejection {ok : Bool} {c c' : Cause} (h : causeUnless ok c = some c') (s done : State) :
    whenOperand ok c s done = .next (reject c' s) := by
  obtain ⟨hOk, rfl⟩ := causeUnless_eq_some.1 h
  exact whenOperand_of_not_ok hOk c s done

theorem whenReady_of_rejection {s : State} {c : Cause} (h : causeUnless s.tv .notInit = some c) (done : State) :
    whenReady s done = .next (reject c s) :=
  whenOperand_of_rejection h s done

theorem exec_of_rejection {i : Instr} {s : State} {c : Cause} (h : rejectionOf s i = some c) :
    exec i s = .next (reject c s) := by
  cases i with
  | nop => cases h
  | clrerr => cases h
  | rdreg reg =>
    obtain ⟨hNone, rfl⟩ := causeUnless_eq_some.1 h
    simp only [exec, execRdreg, Option.not_isSome_iff_eq_none.1 (Bool.not_eq_true _ ▸ hNone)]
  | gfmul | gfinv | gflog | gfexp | synd | disc | bma | chien | recover => exact whenReady_of_rejection h _
  | _ => exact whenOperand_of_rejection h s _

theorem exec_of_no_rejection {i : Instr} {s : State} (h : rejectionOf s i = none) :
    ∃ v, exec i s = .next (respond v (effectOf s i)) := by
  cases i with
  | nop => exact ⟨0, rfl⟩
  | clrerr => exact ⟨0, rfl⟩
  | rdreg reg =>
    obtain ⟨v, hv⟩ := Option.isSome_iff_exists.1 (causeUnless_eq_none.1 h)
    exact ⟨v, by simp only [exec, execRdreg, hv, effectOf]⟩
  | gfmul | gfinv | gflog | gfexp | synd | disc | bma | chien | recover =>
    exact ⟨_, whenReady_of_tv (causeUnless_eq_none.1 h) _⟩
  | _ => exact ⟨_, whenOperand_of_ok (causeUnless_eq_none.1 h) _ s _⟩

/-- A command is rejected, or it executes. -/
theorem exec_cases {i : Instr} {s t : State} (h : exec i s = .next t) :
    (∃ c, rejectionOf s i = some c ∧ t = reject c s) ∨
    (rejectionOf s i = none ∧ ∃ v, t = respond v (effectOf s i)) := by
  cases hc : rejectionOf s i with
  | some c =>
    rw [exec_of_rejection hc] at h
    cases h
    exact .inl ⟨c, rfl, rfl⟩
  | none =>
    obtain ⟨v, hv⟩ := exec_of_no_rejection hc
    rw [hv] at h
    cases h
    exact .inr ⟨rfl, v, rfl⟩

/-! ### The outcome of a step (R230, R232, R233) -/

theorem step_reset {s : State} {rest : List HostAction}
    (h : s.inputs = .reset :: rest ∨ ∃ w, s.inputs = .resetDuring w :: rest) :
    step s = .next (resetEvent (advanceTo rest s)) := by
  rcases h with h | ⟨w, h⟩ <;> simp [step, portStep, h]

/-- The cause with which a word is rejected, if any: ILLEGAL comes first (R203). -/
def wordRejection (s : State) (w : Word) : Option Cause :=
  match decode w with
  | .ok i => rejectionOf s i
  | .error _ => some .illegal

/-- An accepted word is rejected, or is a command that executes. -/
theorem acceptWord_cases {w : Word} {s t : State} (h : acceptWord w s = .next t) :
    (∃ c, wordRejection s w = some c ∧ t = reject c s) ∨
    ∃ i v, decode w = .ok i ∧ rejectionOf s i = none ∧ t = respond v (effectOf s i) := by
  cases hd : decode w with
  | error e =>
    rw [acceptWord_error hd] at h
    cases h
    exact .inl ⟨.illegal, by rw [wordRejection, hd], rfl⟩
  | ok i =>
    rw [acceptWord_ok hd] at h
    obtain ⟨c, hc, ht⟩ | ⟨hNone, v, ht⟩ := exec_cases h
    · exact .inl ⟨c, by rw [wordRejection, hd]; exact hc, ht⟩
    · exact .inr ⟨i, v, rfl, hNone, ht⟩

/-- A step with a next state: the block is idle, accepts a word, hands over its response, or is reset. -/
theorem step_cases {s t : State} (h : step s = .next t) :
    (s.inputs = [] ∧ t = s) ∨
    (∃ w rest, Offers s w rest ∧ acceptWord w (advanceTo rest s) = .next t) ∨
    (∃ rest, s.inputs = .takeResponse :: rest ∧ t = takeResponse (advanceTo rest s)) ∨
    ∃ rest, (s.inputs = .reset :: rest ∨ ∃ w, s.inputs = .resetDuring w :: rest) ∧
      t = resetEvent (advanceTo rest s) := by
  match hi : s.inputs with
  | [] =>
    simp only [step, portStep, hi] at h
    cases h
    exact .inl ⟨rfl, rfl⟩
  | .command w :: rest =>
    cases hr : s.rsp with
    | none => exact .inr (.inl ⟨w, rest, ⟨hi, hr⟩, (step_command_none hi hr).symm.trans h⟩)
    | some r =>
      rw [step_command_some hi hr] at h
      cases h
  | .takeResponse :: rest =>
    simp only [step, portStep, hi] at h
    cases h
    exact .inr (.inr (.inl ⟨rest, rfl, rfl⟩))
  | .reset :: rest =>
    rw [step_reset (.inl hi)] at h
    cases h
    exact .inr (.inr (.inr ⟨rest, .inl rfl, rfl⟩))
  | .resetDuring w :: rest =>
    rw [step_reset (.inr ⟨w, hi⟩)] at h
    cases h
    exact .inr (.inr (.inr ⟨rest, .inr ⟨w, rfl⟩, rfl⟩))

/-! ### What the search and RECOVER leave (R152, R153) -/

theorem runRecover_of_no_discrepancy {s : State} (h : (compared s).nodisc = true) :
    runRecover s = nothingLocated (compared s) :=
  if_pos h

/-- RECOVER ends with its short-circuit or with the search. -/
theorem runRecover_cases (s : State) :
    runRecover s = nothingLocated (compared s) ∨ runRecover s = runChien (runBm (compared s)) := by
  cases h : (compared s).nodisc with
  | true => exact .inl (runRecover_of_no_discrepancy h)
  | false => exact .inr (runRecover_of_discrepancy h)

section
variable (s : State)

@[simp] theorem runChien_par : (runChien s).par = s.par := by rw [runChien_eq]
@[simp] theorem runChien_tables : (runChien s).tables = s.tables := by rw [runChien_eq]
@[simp] theorem runChien_tv : (runChien s).tv = s.tv := by rw [runChien_eq]
@[simp] theorem runChien_t : (runChien s).t = s.t := by rw [runChien_eq]
@[simp] theorem runChien_dlen : (runChien s).dlen = s.dlen := by rw [runChien_eq]
@[simp] theorem runChien_ref : (runChien s).ref = s.ref := by rw [runChien_eq]
@[simp] theorem runChien_rlen : (runChien s).rlen = s.rlen := by rw [runChien_eq]
@[simp] theorem runChien_syn : (runChien s).syn = s.syn := by rw [runChien_eq]
@[simp] theorem runChien_disc : (runChien s).disc = s.disc := by rw [runChien_eq]
@[simp] theorem runChien_sigma : (runChien s).sigma = s.sigma := by rw [runChien_eq]
@[simp] theorem runChien_osig : (runChien s).osig = s.osig := by rw [runChien_eq]
@[simp] theorem runChien_l : (runChien s).l = s.l := by rw [runChien_eq]
@[simp] theorem runChien_mval : (runChien s).mval = s.mval := by rw [runChien_eq]
@[simp] theorem runChien_b : (runChien s).b = s.b := by rw [runChien_eq]
@[simp] theorem runChien_nodisc : (runChien s).nodisc = s.nodisc := by rw [runChien_eq]
@[simp] theorem runChien_err : (runChien s).err = s.err := by rw [runChien_eq]
@[simp] theorem runChien_ecode : (runChien s).ecode = s.ecode := by rw [runChien_eq]
@[simp] theorem runChien_resets : (runChien s).resets = s.resets := by rw [runChien_eq]

end

/-- RECOVER writes DBUF and the elements its four steps compute, and nothing else (R153). -/
theorem runRecover_eq (s : State) :
    runRecover s = { s with
      dbuf := (runRecover s).dbuf, syn := (runRecover s).syn, disc := (runRecover s).disc
      sigma := (runRecover s).sigma, osig := (runRecover s).osig, l := (runRecover s).l
      mval := (runRecover s).mval, b := (runRecover s).b, flipcnt := (runRecover s).flipcnt
      nodisc := (runRecover s).nodisc } := by
  obtain h | h := runRecover_cases s
  · rw [h]; rfl
  · rw [h, runChien_eq]; rfl

section
variable (s : State)

@[simp] theorem runRecover_par : (runRecover s).par = s.par := by rw [runRecover_eq]
@[simp] theorem runRecover_tables : (runRecover s).tables = s.tables := by rw [runRecover_eq]
@[simp] theorem runRecover_tv : (runRecover s).tv = s.tv := by rw [runRecover_eq]
@[simp] theorem runRecover_t : (runRecover s).t = s.t := by rw [runRecover_eq]
@[simp] theorem runRecover_dlen : (runRecover s).dlen = s.dlen := by rw [runRecover_eq]
@[simp] theorem runRecover_ref : (runRecover s).ref = s.ref := by rw [runRecover_eq]
@[simp] theorem runRecover_rlen : (runRecover s).rlen = s.rlen := by rw [runRecover_eq]
@[simp] theorem runRecover_err : (runRecover s).err = s.err := by rw [runRecover_eq]
@[simp] theorem runRecover_ecode : (runRecover s).ecode = s.ecode := by rw [runRecover_eq]
@[simp] theorem runRecover_resets : (runRecover s).resets = s.resets := by rw [runRecover_eq]

end

end Sys2Proof.Machine
end

section
/-! The tables INIT builds (40_field_tables.md R100, R102): whatever the two memories held, after the power n is written
they hold the first powers of R102 up to n, and every entry is written in the end. -/

namespace Sys2Proof.Machine

/-- A property of a loop's turns holds after the last. -/
theorem foldl_range_induction {σ : Type} {f : σ → Nat → σ} (P : Nat → σ → Prop) {n : Nat} {x : σ} (hZero : P 0 x)
    (hSucc : ∀ i < n, ∀ y, P i y → P (i + 1) (f y i)) : P n ((List.range n).foldl f x) := by
  induction n with
  | zero => exact hZero
  | succ n ih =>
    rw [List.range_succ, List.foldl_append]
    exact hSucc n (Nat.lt_succ_self n) _ (ih fun i hi => hSucc i (Nat.lt_succ_of_lt hi))

/-- The first n powers of R102 stand in ALPHA_TO and, but for the entry 255 that repeats α^0 (90_conflicts.md C3), their
logarithms in INDEX_OF. -/
structure PowersBuilt (n : Nat) (tb : Tables) : Prop where
  alphaTo_length : tb.alphaTo.length = 256
  indexOf_length : tb.indexOf.length = 256
  powers : ∀ k < n, elem tb.alphaTo k = elem powerTable k
  logs : ∀ k < n, k < 255 → elem tb.indexOf (elem powerTable k).toNat = BitVec.ofNat 8 k

theorem length_powerTable : powerTable.length = 256 := by decide +kernel

theorem length_logTable : logTable.length = 256 := by decide +kernel

theorem elem_powerTable_eq_iff {j k : Nat} (hj : j < 255) (hk : k < 255) :
    elem powerTable j = elem powerTable k ↔ j = k := by
  have h := alphaPow_eq_iff j k
  rwa [alphaPow, alphaPow, Nat.mod_eq_of_lt hj, Nat.mod_eq_of_lt hk] at h

theorem timesAlpha_powerTable {n : Nat} (h : n < 255) :
    timesAlpha (elem powerTable n) = elem powerTable (n + 1) := by
  revert n; decide +kernel

/-- One more power, written to both memories. -/
theorem PowersBuilt.setPower {n : Nat} {tb : Tables} (h : PowersBuilt n tb) (hn : n < 255) {v : Byte}
    (hv : v = elem powerTable n) : PowersBuilt (n + 1) (setPower tb n v) where
  alphaTo_length := (length_setElem ..).trans h.alphaTo_length
  indexOf_length := (length_setElem ..).trans h.indexOf_length
  powers k hk := by
    rw [Machine.setPower, elem_setElem _ _ _ _ (by rw [h.alphaTo_length]; omega)]
    split
    · next hkn => rw [hv, hkn]
    · exact h.powers k (by omega)
  logs k hk hk255 := by
    rw [Machine.setPower, elem_setElem _ _ _ _ (by rw [h.indexOf_length]; exact v.isLt)]
    have hSame : (elem powerTable k).toNat = v.toNat ↔ k = n := by
      rw [BitVec.toNat_inj, hv, elem_powerTable_eq_iff hk255 hn]
    split
    · next hkn => rw [hSame.1 hkn]
    · next hkn => exact h.logs k (by have := mt hSame.2 hkn; omega) hk255

theorem powersBuilt_lowPowers {tb : Tables} (ha : tb.alphaTo.length = 256) (hi : tb.indexOf.length = 256) :
    PowersBuilt 8 (buildLowPowers tb) := by
  have hBits : ∀ i < 8, (1 : Byte) <<< i = elem powerTable i := by decide +kernel
  refine foldl_range_induction PowersBuilt ⟨ha, hi, fun k hk => ?_, fun k hk => ?_⟩ fun i hi8 tb h =>
    h.setPower (by omega) (hBits i hi8)
  · exact absurd hk (Nat.not_lt_zero k)
  · exact absurd hk (Nat.not_lt_zero k)

/-- The last power, α^255 = 1, does not overwrite INDEX_OF[1]. -/
theorem PowersBuilt.buildPower {n : Nat} {tb : Tables} (h : PowersBuilt n tb) (hPos : 1 ≤ n) (hn : n ≤ 255) :
    PowersBuilt (n + 1) (buildPower tb n) := by
  have hv : timesAlpha (elem tb.alphaTo (n - 1)) = elem powerTable n := by
    rw [h.powers (n - 1) (by omega), timesAlpha_powerTable (by omega), Nat.sub_add_cancel hPos]
  unfold Machine.buildPower
  split
  · exact h.setPower (by omega) hv
  · exact {
      alphaTo_length := (length_setElem ..).trans h.alphaTo_length
      indexOf_length := h.indexOf_length
      powers := fun k hk => by
        rw [elem_setElem _ _ _ _ (by rw [h.alphaTo_length]; omega)]
        split
        · next hkn => rw [hv, hkn]
        · exact h.powers k (by omega)
      logs := fun k _ hk255 => h.logs k (by omega) hk255 }

theorem eq_of_elem_eq {l m : List Byte} {n : Nat} (hl : l.length = n) (hm : m.length = n)
    (h : ∀ k < n, elem l k = elem m k) : l = m := by
  refine List.ext_getElem (hl.trans hm.symm) fun k hkl hkm => ?_
  have hk := h k (hl ▸ hkl)
  rwa [elem, elem, List.getD_eq_getElem _ _ hkl, List.getD_eq_getElem _ _ hkm] at hk

/-- With all 256 powers written, INDEX_OF[0] is the only entry left over. -/
theorem PowersBuilt.eq_standardTables {tb : Tables} (h : PowersBuilt 256 tb) :
    ({ tb with indexOf := setElem tb.indexOf 0 0xFF } : Tables) = standardTables := by
  have hLogs : ∀ a : Byte, a ≠ 0 → (elem logTable a.toNat).toNat < 255 ∧
      elem powerTable (elem logTable a.toNat).toNat = a := by decide +kernel
  have hAlphaTo : tb.alphaTo = powerTable := eq_of_elem_eq h.alphaTo_length length_powerTable h.powers
  have hIndexOf : setElem tb.indexOf 0 0xFF = logTable := by
    refine eq_of_elem_eq ((length_setElem ..).trans h.indexOf_length) length_logTable fun k hk => ?_
    rw [elem_setElem _ _ _ _ (by rw [h.indexOf_length]; decide)]
    split
    · next hk0 => rw [hk0]; rfl
    · next hk0 =>
      have ha : BitVec.ofNat 8 k ≠ 0 := fun e => hk0 (by simpa [Nat.mod_eq_of_lt hk] using congrArg BitVec.toNat e)
      obtain ⟨hLt, hPower⟩ := hLogs _ ha
      have hLog := h.logs _ (by omega) hLt
      rw [hPower, BitVec.ofNat_toNat, BitVec.setWidth_eq, BitVec.toNat_ofNat, Nat.mod_eq_of_lt hk] at hLog
      exact hLog
  rw [hAlphaTo, hIndexOf, standardTables]

theorem buildTables_eq_standardTables {tb : Tables} (ha : tb.alphaTo.length = 256) (hi : tb.indexOf.length = 256) :
    buildTables tb = standardTables := by
  have hEight : PowersBuilt 9 (setPower (buildLowPowers tb) 8 primResidue) :=
    (powersBuilt_lowPowers ha hi).setPower (by decide) (by decide +kernel)
  have hAll : PowersBuilt 256
      (((List.range 247).map (· + 9)).foldl buildPower (setPower (buildLowPowers tb) 8 primResidue)) := by
    rw [List.foldl_map]
    exact foldl_range_induction (fun n => PowersBuilt (n + 9)) hEight fun i hi tb h =>
      h.buildPower (by omega) (by omega)
  exact hAll.eq_standardTables

end Sys2Proof.Machine
end

section
/-! The registers of the recurrence at every step (43_locator.md R140, R142): their sizes, their ranges, and the entries
above T, whatever the tables and the discrepancies hold. -/

namespace Sys2Proof.Machine

/-- The registers after r steps of a recurrence with capacity t in memories of `len` entries. -/
structure RegistersInv (t len r : Nat) (q : Recurrence) : Prop where
  sigma_length : q.sigma.length = len
  osig_length : q.osig.length = len
  sigma_zero : elem q.sigma 0 = 1
  osig_zero : elem q.osig 0 = 1
  sigma_above : ∀ k, t < k → elem q.sigma k = 0
  osig_above : ∀ k, t < k → elem q.osig k = 0
  b_ne_zero : q.b ≠ 0
  l_le : q.l ≤ r
  mval_pos : 1 ≤ q.mval
  mval_le : q.mval ≤ r + 1

theorem registersInv_start (t len : Nat) : RegistersInv t (len + 1) 0 (Recurrence.start (len + 1)) where
  sigma_length := length_unitVector _
  osig_length := length_unitVector _
  sigma_zero := elem_unitVector len 0
  osig_zero := elem_unitVector len 0
  sigma_above k hk := (elem_unitVector len k).trans (if_neg (Nat.ne_zero_of_lt hk))
  osig_above k hk := (elem_unitVector len k).trans (if_neg (Nat.ne_zero_of_lt hk))
  b_ne_zero := by simp [Recurrence.start]
  l_le := Nat.le_refl 0
  mval_pos := Nat.le_refl 1
  mval_le := Nat.le_refl 1

section
variable {tb : Tables} {t len r : Nat} {disc : List Byte} {q : Recurrence} (h : RegistersInv t len r q)
include h

/-- A step that leaves OSIG, L and B. -/
theorem RegistersInv.mval_succ : RegistersInv t len (r + 1) { q with mval := q.mval + 1 } where
  sigma_length := h.sigma_length
  osig_length := h.osig_length
  sigma_zero := h.sigma_zero
  osig_zero := h.osig_zero
  sigma_above := h.sigma_above
  osig_above := h.osig_above
  b_ne_zero := h.b_ne_zero
  l_le := Nat.le_succ_of_le h.l_le
  mval_pos := Nat.le_add_left 1 _
  mval_le := Nat.succ_le_succ h.mval_le

/-- The update loop writes the entries MVAL..T only, and MVAL is at least 1. -/
theorem RegistersInv.updateSigma (ht : t < len) (c : Byte) :
    RegistersInv t len r { q with sigma := updateSigma tb t c q } where
  sigma_length := (length_updateSigma ..).trans h.sigma_length
  osig_length := h.osig_length
  sigma_zero := by
    have := h.mval_pos
    rw [elem_updateSigma _ _ _ _ (h.sigma_length.symm ▸ ht), if_neg (by omega)]
    exact h.sigma_zero
  osig_zero := h.osig_zero
  sigma_above k hk := by
    rw [elem_updateSigma _ _ _ _ (h.sigma_length.symm ▸ ht), if_neg (by omega)]
    exact h.sigma_above k hk
  osig_above := h.osig_above
  b_ne_zero := h.b_ne_zero
  l_le := h.l_le
  mval_pos := h.mval_pos
  mval_le := h.mval_le

/-- The snapshot is the SIGMA of before the step. -/
theorem RegistersInv.snapshot (ht : t < len) {sigma : List Byte} {d : Byte} (hd : d ≠ 0)
    (hq : RegistersInv t len r { q with sigma := sigma }) :
    RegistersInv t len (r + 1)
      { sigma := sigma, osig := snapshotOver t q.sigma q.osig, l := r + 1 - q.l, mval := 1, b := d } where
  sigma_length := hq.sigma_length
  osig_length := by
    have := h.sigma_length
    have := h.osig_length
    rw [snapshotOver, List.length_append, List.length_take, List.length_drop]
    omega
  sigma_zero := hq.sigma_zero
  osig_zero := by
    rw [elem_snapshotOver _ _ _ (h.sigma_length.symm ▸ ht), if_pos (Nat.zero_le t)]
    exact h.sigma_zero
  sigma_above := hq.sigma_above
  osig_above k hk := by
    rw [elem_snapshotOver _ _ _ (h.sigma_length.symm ▸ ht), if_neg (Nat.not_le.2 hk)]
    exact h.osig_above k hk
  b_ne_zero := hd
  l_le := Nat.sub_le _ _
  mval_pos := Nat.le_refl 1
  mval_le := Nat.le_add_left 1 _

theorem RegistersInv.step (ht : t < len) : RegistersInv t len (r + 1) (recurrenceStep tb t disc q (r + 1)) := by
  obtain ⟨-, hq⟩ | ⟨hd, -, hq⟩ | ⟨-, -, hq⟩ := recurrenceStep_cases tb t disc q (r + 1)
  · rw [hq]; exact h.mval_succ
  · rw [hq]; exact h.snapshot ht hd (h.updateSigma ht _)
  · rw [hq]; exact (h.updateSigma ht _).mval_succ

end

theorem registersInv_recurrenceAfter (tb : Tables) {t len : Nat} (disc : List Byte) (ht : t ≤ len) (r : Nat) :
    RegistersInv t (len + 1) r (recurrenceAfter tb t disc (len + 1) r) := by
  induction r with
  | zero => exact registersInv_start t len
  | succ r ih =>
    rw [recurrenceAfter_succ]
    exact ih.step (Nat.lt_succ_of_le ht)

end Sys2Proof.Machine
end

section
/-! The invariants between two commands (10_state.md R46): reset meets them, and every operation keeps them. -/

namespace Sys2Proof.Machine

/-! ### Reset (R47) -/

theorem afterReset_inv (p : Params) (k : Nat) : (State.afterReset p k).Inv where
  alphaTo_length := by simp [State.afterReset, drawnVector]
  indexOf_length := by simp [State.afterReset, drawnVector]
  syn_length := List.length_replicate
  disc_length := List.length_replicate
  sigma_length := length_unitVector _
  osig_length := length_unitVector _
  syn_zero := elem_replicate_zero _ _
  disc_zero := elem_replicate_zero _ _
  syn_above _ _ _ := elem_replicate_zero _ _
  disc_above _ _ _ := elem_replicate_zero _ _
  sigma_zero := elem_unitVector _ 0
  osig_zero := elem_unitVector _ 0
  sigma_above j _ hj := (elem_unitVector _ j).trans (if_neg (Nat.ne_zero_of_lt hj))
  osig_above j _ hj := (elem_unitVector _ j).trans (if_neg (Nat.ne_zero_of_lt hj))
  b_ne_zero := by simp [State.afterReset]
  l_le := Nat.le_refl 0
  mval_pos := Nat.le_refl 1
  mval_le := Nat.le_refl 1
  dlen_le := Nat.zero_le _
  rlen_le := Nat.zero_le _
  tv_iff := by simp [State.afterReset]
  not_tv_iff := by simp [State.afterReset]
  tables_built h := by cases h
  err_iff := by simp [State.afterReset]
  ecode_le := Nat.zero_le _
  dbuf_wf := wf_nil
  ref_wf := wf_nil
  dbuf_inside c hc := by cases hc
  ref_inside c hc := by cases hc

/-- Settles O14: State.reset is the state after reset at the parameters of log 2. -/
theorem resetMeetsTheInvariants : Obligations.ResetMeetsTheInvariants :=
  ⟨afterReset_inv, afterReset_inv _ _⟩

/-! ### The operations -/

theorem lastCompared_le (s : State) : lastCompared s ≤ 2 * s.t.toNat := by
  unfold lastCompared
  split
  · exact Nat.zero_le _
  · exact Nat.min_le_left _ _

theorem firstCause_ne_zero (e : BitVec 4) (c : Cause) : firstCause e c ≠ 0 := by
  unfold firstCause
  split
  · cases c <;> decide
  · assumption

theorem firstCause_le {e : BitVec 4} (h : e.toNat ≤ 4) (c : Cause) : (firstCause e c).toNat ≤ 4 := by
  unfold firstCause
  split
  · cases c <;> decide
  · exact h

/-- A write adds no address but its own. -/
theorem forall_mem_write {m : Memory} {P : Nat → Prop} (h : ∀ c ∈ m, P c.1) {a : Nat} (ha : P a) (v : Byte) :
    ∀ c ∈ m.write a v, P c.1 := by
  intro c hc
  obtain hEq | hMem := (mem_addresses_write m a c.1 v).1 (List.mem_map_of_mem hc)
  · exact hEq ▸ ha
  · obtain ⟨d, hd, hEq⟩ := List.mem_map.1 hMem
    exact hEq ▸ h d hd

section
variable {s : State} (h : s.Inv)
include h

theorem State.Inv.respond (v : Half) : (respond v s).Inv := { h with }

theorem State.Inv.advanceTo (rest : List HostAction) : (advanceTo rest s).Inv := { h with }

theorem State.Inv.takeResponse : (takeResponse s).Inv := { h with }

theorem State.Inv.reject (c : Cause) : (reject c s).Inv :=
  { h with
    err_iff := iff_of_true rfl (firstCause_ne_zero _ c)
    ecode_le := firstCause_le h.ecode_le c }

theorem State.Inv.clearRecord : (clearRecord s).Inv :=
  { h with
    err_iff := by simp
    ecode_le := Nat.zero_le _ }

theorem State.Inv.setDlen {x : Half} (hx : x.toNat ≤ s.par.dmax) : (setDlen x s).Inv := { h with dlen_le := hx }

theorem State.Inv.setRlen {x : Half} (hx : x.toNat ≤ 2 * s.par.tmax + 1) : (setRlen x s).Inv :=
  { h with rlen_le := hx }

theorem State.Inv.writeDbuf {k : Nat} (hk : k < s.par.dmax) (v : Byte) : (writeDbuf k v s).Inv :=
  { h with
    dbuf_wf := wf_write _ _ _ h.dbuf_wf
    dbuf_inside := forall_mem_write (P := (· < s.par.dmax)) h.dbuf_inside hk v }

theorem State.Inv.writeRef {k : Nat} (hk : k ≤ 2 * s.par.tmax) (v : Byte) : (writeRef k v s).Inv :=
  { h with
    ref_wf := wf_write _ _ _ h.ref_wf
    ref_inside := forall_mem_write (P := (· ≤ 2 * s.par.tmax)) h.ref_inside hk v }

theorem State.Inv.construct {c : Byte} (hPos : 1 ≤ c.toNat) (hLe : c.toNat ≤ s.par.tmax) : (construct c s).Inv := by
  rw [Machine.construct, buildTables_eq_standardTables h.alphaTo_length h.indexOf_length]
  exact { h with
    alphaTo_length := length_powerTable
    indexOf_length := length_logTable
    syn_length := List.length_replicate
    disc_length := List.length_replicate
    sigma_length := length_unitVector _
    osig_length := length_unitVector _
    syn_zero := elem_replicate_zero _ _
    disc_zero := elem_replicate_zero _ _
    syn_above := fun _ _ _ => elem_replicate_zero _ _
    disc_above := fun _ _ _ => elem_replicate_zero _ _
    sigma_zero := elem_unitVector _ 0
    osig_zero := elem_unitVector _ 0
    sigma_above := fun j _ hj => (elem_unitVector _ j).trans (if_neg (Nat.ne_zero_of_lt hj))
    osig_above := fun j _ hj => (elem_unitVector _ j).trans (if_neg (Nat.ne_zero_of_lt hj))
    b_ne_zero := by simp
    l_le := Nat.zero_le _
    mval_pos := Nat.le_refl 1
    mval_le := Nat.le_add_left 1 _
    tv_iff := iff_of_true rfl ⟨hPos, hLe⟩
    not_tv_iff := iff_of_false Bool.noConfusion fun hc => Nat.ne_zero_of_lt hPos (congrArg BitVec.toNat hc)
    tables_built := fun _ => rfl }

theorem State.Inv.t_le_tmax : s.t.toNat ≤ s.par.tmax := by
  cases htv : s.tv with
  | true => exact (h.tv_iff.1 htv).2
  | false => rw [h.not_tv_iff.1 htv]; exact Nat.zero_le _

theorem State.Inv.computeSyndromes : (computeSyndromes s).Inv :=
  { h with
    syn_length := length_computeSyndromes s
    syn_zero := by rw [elem_computeSyndromes s h.t_le_tmax]; rfl
    syn_above := fun j _ hj => by
      rw [elem_computeSyndromes s h.t_le_tmax]
      exact if_neg (fun hAnd => absurd hAnd.2 (Nat.not_le.2 hj)) }

theorem State.Inv.computeDiscrepancy : (computeDiscrepancy s).Inv :=
  { h with
    disc_length := length_discrepancies s
    disc_zero := by rw [computeDiscrepancy_disc, elem_discrepancies s h.t_le_tmax]; rfl
    disc_above := fun j _ hj => by
      have hLast := (lastCompared_le s).trans_lt hj
      rw [computeDiscrepancy_disc, elem_discrepancies s h.t_le_tmax]
      exact if_neg fun hAnd => absurd hAnd.2 (Nat.not_le.2 hLast) }

/-- The recurrence ran at most 2·T steps, so L and MVAL fit their 8 bits. -/
theorem State.Inv.withRecurrence {q : Recurrence} {r : Nat} (hq : RegistersInv s.t.toNat (s.par.tmax + 1) r q)
    (hr : r ≤ 2 * s.t.toNat) : (withRecurrence q s).Inv := by
  have := h.t_le_tmax
  have := s.par.tmax_bounds
  have := hq.l_le
  have := hq.mval_le
  have hl : (BitVec.ofNat 8 q.l).toNat = q.l := by
    rw [BitVec.toNat_ofNat]; exact Nat.mod_eq_of_lt (by omega)
  have hm : (BitVec.ofNat 8 q.mval).toNat = q.mval := by
    rw [BitVec.toNat_ofNat]; exact Nat.mod_eq_of_lt (by omega)
  exact { h with
    sigma_length := hq.sigma_length
    osig_length := hq.osig_length
    sigma_zero := hq.sigma_zero
    osig_zero := hq.osig_zero
    sigma_above := fun k _ => hq.sigma_above k
    osig_above := fun k _ => hq.osig_above k
    b_ne_zero := hq.b_ne_zero
    l_le := by rw [withRecurrence_l, hl, withRecurrence_t]; omega
    mval_pos := by rw [withRecurrence_mval, hm]; exact hq.mval_pos
    mval_le := by rw [withRecurrence_mval, hm, withRecurrence_t]; omega }

theorem State.Inv.runBm : (runBm s).Inv :=
  h.withRecurrence (registersInv_recurrenceAfter _ _ h.t_le_tmax _) (Nat.le_refl _)

end

/-- Flips of positions inside the first n bytes list no byte beyond them. -/
theorem foldl_flipBit_inside {ps : List Nat} {n : Nat} (hps : ∀ p ∈ ps, p / 8 < n) {s : State}
    (h : ∀ c ∈ s.dbuf, c.1 < n) : ∀ c ∈ (ps.foldl flipBit s).dbuf, c.1 < n := by
  induction ps generalizing s with
  | nil => exact h
  | cons p ps ih =>
    exact ih (fun q hq => hps q (List.mem_cons_of_mem p hq))
      (forall_mem_write (P := (· < n)) h (hps p List.mem_cons_self) _)

/-- The search marks positions of the first DLEN bytes only (R151). -/
theorem byte_lt_dlen_of_mem_markedPositions {s : State} {p : Nat} (h : p ∈ markedPositions s) :
    p / 8 < s.dlen.toNat := by
  have := ((mem_markedPositions s p).1 h).1
  omega

theorem State.Inv.runChien {s : State} (h : s.Inv) : (runChien s).Inv := by
  have hWf : (Machine.runChien s).dbuf.wf := wf_foldl_flipBit _ _ h.dbuf_wf
  have hInside : ∀ c ∈ (Machine.runChien s).dbuf, c.1 < s.par.dmax :=
    foldl_flipBit_inside (fun p hp => (byte_lt_dlen_of_mem_markedPositions hp).trans_le h.dlen_le) h.dbuf_inside
  rw [runChien_eq]
  exact { h with dbuf_wf := hWf, dbuf_inside := hInside }

theorem State.Inv.runRecover {s : State} (h : s.Inv) : (runRecover s).Inv := by
  have hCompared : (compared s).Inv := h.computeSyndromes.computeDiscrepancy
  obtain hRun | hRun := runRecover_cases s
  · rw [hRun]
    exact { hCompared.withRecurrence (registersInv_start _ _) (Nat.zero_le _) with }
  · rw [hRun]
    exact hCompared.runBm.runChien

/-! ### Commands and steps -/

theorem isCapacity_iff {s : State} {c : Byte} : isCapacity s c = true ↔ 1 ≤ c.toNat ∧ c.toNat ≤ s.par.tmax := by
  simp only [isCapacity, Bool.and_eq_true, decide_eq_true_eq, Nat.one_le_iff_ne_zero, ne_eq,
    ← BitVec.toNat_inj, BitVec.ofNat_eq_ofNat, BitVec.toNat_ofNat, Nat.zero_mod]

theorem State.Inv.effectOf {s : State} (h : s.Inv) {i : Instr} (hi : rejectionOf s i = none) :
    (effectOf s i).Inv := by
  cases i with
  | init c =>
    obtain ⟨hPos, hLe⟩ := isCapacity_iff.1 (causeUnless_eq_none.1 hi)
    exact h.construct hPos hLe
  | clrerr => exact h.clearRecord
  | synd => exact h.computeSyndromes
  | disc => exact h.computeDiscrepancy
  | bma => exact h.runBm
  | chien => exact h.runChien
  | recover => exact h.runRecover
  | wrdata addr byte => exact h.writeDbuf (of_decide_eq_true (causeUnless_eq_none.1 hi)) byte
  | setdlen len => exact h.setDlen (of_decide_eq_true (causeUnless_eq_none.1 hi))
  | wrref idx v => exact h.writeRef (of_decide_eq_true (causeUnless_eq_none.1 hi)) v
  | setrlen len => exact h.setRlen (of_decide_eq_true (causeUnless_eq_none.1 hi))
  | _ => exact h

theorem State.Inv.acceptWord {s t : State} (h : s.Inv) {w : Word} (ht : acceptWord w s = .next t) : t.Inv := by
  obtain ⟨c, -, rfl⟩ | ⟨i, v, -, hNone, rfl⟩ := acceptWord_cases ht
  · exact h.reject c
  · exact (h.effectOf hNone).respond v

/-- Settles O13: the four outcomes of a step each keep the invariants. -/
theorem stepKeepsTheInvariants : Obligations.StepKeepsTheInvariants := by
  intro s t h hStep
  obtain ⟨-, rfl⟩ | ⟨w, rest, -, ht⟩ | ⟨rest, -, rfl⟩ | ⟨rest, -, rfl⟩ := step_cases hStep
  · exact h
  · exact (h.advanceTo rest).acceptWord ht
  · exact (h.advanceTo rest).takeResponse
  · exact { afterReset_inv s.par (s.resets + 1) with }

end Sys2Proof.Machine
end

section
/-! The frame of a command (10_state.md R20): which of the 19 elements it may change, each by the effects of the commands
that write it (R23 to R40), and DBUF and REF entry by entry (R42, R60). -/

namespace Sys2Proof.Machine

open Sys2Proof.Stated

/-! ### Entries of DBUF -/

theorem readDbuf_foldl_flipBit_other {ps : List Nat} {k : Nat} (hps : ∀ p ∈ ps, p / 8 ≠ k) (s : State) :
    readDbuf (ps.foldl flipBit s) k = readDbuf s k := by
  induction ps generalizing s with
  | nil => rfl
  | cons p ps ih =>
    rw [List.foldl_cons, ih fun q hq => hps q (List.mem_cons_of_mem p hq), flipBit, readDbuf_writeDbuf,
      if_neg (hps p List.mem_cons_self).symm]

/-- CHIEN leaves the bytes at DLEN and above (R60, R151). -/
theorem readDbuf_runChien_of_dlen_le {s : State} {k : Nat} (h : s.dlen.toNat ≤ k) :
    readDbuf (runChien s) k = readDbuf s k :=
  readDbuf_foldl_flipBit_other
    (fun _ hp e => absurd (byte_lt_dlen_of_mem_markedPositions hp) (Nat.not_lt.2 (e.symm ▸ h))) s

/-- So does RECOVER (R153). -/
theorem readDbuf_runRecover_of_dlen_le {s : State} {k : Nat} (h : s.dlen.toNat ≤ k) :
    readDbuf (runRecover s) k = readDbuf s k := by
  obtain hRun | hRun := runRecover_cases s
  · rw [hRun]; rfl
  · rw [hRun]
    exact readDbuf_runChien_of_dlen_le (s := runBm (compared s)) h

/-! ### The writers of each element -/

section
variable (s : State) {i : Instr}

theorem effectOf_par : (effectOf s i).par = s.par := by
  cases i with
  | init c => exact construct_par s c
  | chien => exact runChien_par s
  | recover => exact runRecover_par s
  | _ => rfl

/-- R23, R24, R27. -/
theorem effectOf_field (h : ¬ ∃ c, i = .init c) :
    (effectOf s i).tables = s.tables ∧ (effectOf s i).tv = s.tv ∧ (effectOf s i).t = s.t := by
  cases i with
  | init c => exact absurd ⟨c, rfl⟩ h
  | chien => exact ⟨runChien_tables s, runChien_tv s, runChien_t s⟩
  | recover => exact ⟨runRecover_tables s, runRecover_tv s, runRecover_t s⟩
  | _ => exact ⟨rfl, rfl, rfl⟩

/-- R39, R40: an executed command leaves the record of rejections. -/
theorem effectOf_record (h : i ≠ .clrerr) : (effectOf s i).err = s.err ∧ (effectOf s i).ecode = s.ecode := by
  cases i with
  | clrerr => exact absurd rfl h
  | init c => exact ⟨construct_err s c, construct_ecode s c⟩
  | chien => exact ⟨runChien_err s, runChien_ecode s⟩
  | recover => exact ⟨runRecover_err s, runRecover_ecode s⟩
  | _ => exact ⟨rfl, rfl⟩

/-- R26. -/
theorem effectOf_dlen (h : ¬ ∃ x, i = .setdlen x) : (effectOf s i).dlen = s.dlen := by
  cases i with
  | setdlen x => exact absurd ⟨x, rfl⟩ h
  | init c => exact construct_dlen s c
  | chien => exact runChien_dlen s
  | recover => exact runRecover_dlen s
  | _ => rfl

/-- R29. -/
theorem effectOf_rlen (h : ¬ ∃ x, i = .setrlen x) : (effectOf s i).rlen = s.rlen := by
  cases i with
  | setrlen x => exact absurd ⟨x, rfl⟩ h
  | init c => exact construct_rlen s c
  | chien => exact runChien_rlen s
  | recover => exact runRecover_rlen s
  | _ => rfl

/-- R28. -/
theorem readRef_effectOf {k : Nat} (h : ¬ ∃ x v, i = .wrref x v ∧ x.toNat = k) :
    readRef (effectOf s i) k = readRef s k := by
  cases i with
  | wrref x v => exact (readRef_writeRef s k x.toNat v).trans (if_neg fun e => h ⟨x, v, rfl, e.symm⟩)
  | init c => exact readRef_congr (construct_ref s c) (construct_resets s c) k
  | chien => exact readRef_congr (runChien_ref s) (runChien_resets s) k
  | recover => exact readRef_congr (runRecover_ref s) (runRecover_resets s) k
  | _ => rfl

/-- R25, R60. -/
theorem readDbuf_effectOf {k : Nat} (h : ¬ ((∃ x v, i = .wrdata x v ∧ x.toNat = k) ∨
    ((i = .chien ∨ i = .recover) ∧ k < s.dlen.toNat))) : readDbuf (effectOf s i) k = readDbuf s k := by
  obtain ⟨hWrdata, hSearch⟩ := not_or.1 h
  cases i with
  | wrdata x v => exact (readDbuf_writeDbuf s k x.toNat v).trans (if_neg fun e => hWrdata ⟨x, v, rfl, e.symm⟩)
  | init c => exact readDbuf_congr (construct_dbuf s c) (construct_resets s c) k
  | chien => exact readDbuf_runChien_of_dlen_le (Nat.not_lt.1 fun hk => hSearch ⟨.inl rfl, hk⟩)
  | recover => exact readDbuf_runRecover_of_dlen_le (Nat.not_lt.1 fun hk => hSearch ⟨.inr rfl, hk⟩)
  | _ => rfl

/-- R30. -/
theorem effectOf_syn (h : ¬ (i = .synd ∨ i = .recover ∨ ∃ c, i = .init c)) : (effectOf s i).syn = s.syn := by
  cases i with
  | synd => exact absurd (.inl rfl) h
  | recover => exact absurd (.inr (.inl rfl)) h
  | init c => exact absurd (.inr (.inr ⟨c, rfl⟩)) h
  | chien => exact runChien_syn s
  | _ => rfl

/-- R31, R38. -/
theorem effectOf_discrepancy (h : ¬ (i = .disc ∨ i = .recover ∨ ∃ c, i = .init c)) :
    (effectOf s i).disc = s.disc ∧ (effectOf s i).nodisc = s.nodisc := by
  cases i with
  | disc => exact absurd (.inl rfl) h
  | recover => exact absurd (.inr (.inl rfl)) h
  | init c => exact absurd (.inr (.inr ⟨c, rfl⟩)) h
  | chien => exact ⟨runChien_disc s, runChien_nodisc s⟩
  | _ => exact ⟨rfl, rfl⟩

/-- R32 to R36. -/
theorem effectOf_locator (h : ¬ (i = .bma ∨ i = .recover ∨ ∃ c, i = .init c)) :
    (effectOf s i).sigma = s.sigma ∧ (effectOf s i).osig = s.osig ∧ (effectOf s i).l = s.l ∧
      (effectOf s i).mval = s.mval ∧ (effectOf s i).b = s.b := by
  cases i with
  | bma => exact absurd (.inl rfl) h
  | recover => exact absurd (.inr (.inl rfl)) h
  | init c => exact absurd (.inr (.inr ⟨c, rfl⟩)) h
  | chien => exact ⟨runChien_sigma s, runChien_osig s, runChien_l s, runChien_mval s, runChien_b s⟩
  | _ => exact ⟨rfl, rfl, rfl, rfl, rfl⟩

/-- R37. -/
theorem effectOf_flipcnt (h : ¬ (i = .chien ∨ i = .recover ∨ ∃ c, i = .init c)) :
    (effectOf s i).flipcnt = s.flipcnt := by
  cases i with
  | chien => exact absurd (.inl rfl) h
  | recover => exact absurd (.inr (.inl rfl)) h
  | init c => exact absurd (.inr (.inr ⟨c, rfl⟩)) h
  | _ => rfl

end

/-- R85, R200: the response of a rejection says so. -/
theorem rejBit_responseWord_of_reject (c : Cause) : rejBit (responseWord true c.code 0) = true := by
  cases c <;> decide

/-- Settles O18: a rejection writes nothing but the record and the response, and an executed command writes what the frame
of each element allows. -/
theorem elementsChangeOnlyByTheirWriters : Obligations.ElementsChangeOnlyByTheirWriters := by
  intro i s t hExec
  obtain ⟨c, -, rfl⟩ | ⟨-, v, rfl⟩ := exec_cases hExec
  · have hRecord : ∃ r, (reject c s).rsp = some r ∧ rejBit r = true := ⟨_, rfl, rejBit_responseWord_of_reject c⟩
    have hRef : ∀ k, readRef (reject c s) k = readRef s k := fun _ => rfl
    have hDbuf : ∀ k, readDbuf (reject c s) k = readDbuf s k := fun _ => rfl
    refine ⟨?_, fun _ => .inr hRecord, ?_⟩ <;> simp [hRef, hDbuf]
  · exact ⟨fun hne => by_contra fun h => by simp [effectOf_field s h] at hne,
      fun hne => .inl (by_contra fun h => by simp [effectOf_record s h] at hne),
      not_imp_comm.1 (effectOf_dlen s), not_imp_comm.1 (effectOf_rlen s),
      fun _ => not_imp_comm.1 (readRef_effectOf s), fun _ => not_imp_comm.1 (readDbuf_effectOf s),
      not_imp_comm.1 (effectOf_syn s),
      fun hne => by_contra fun h => by simp [effectOf_discrepancy s h] at hne,
      fun hne => by_contra fun h => by simp [effectOf_locator s h] at hne,
      not_imp_comm.1 (effectOf_flipcnt s)⟩

/-- Settles O16: a rejection writes no table, and INIT is the only command whose effect does. -/
theorem tablesAreWrittenOnlyByInit : Obligations.TablesAreWrittenOnlyByInit := by
  intro i s t hExec hne
  obtain ⟨c, -, rfl⟩ | ⟨-, v, rfl⟩ := exec_cases hExec
  · exact absurd rfl hne
  · exact by_contra fun h => hne (effectOf_field s h).1

end Sys2Proof.Machine
end

section
/-! What the outcomes of a step say of the parameters (10_state.md R48), of TV (R23), and of the state after reset (R47,
70_reset_and_hazards.md R230). -/

namespace Sys2Proof.Machine

open Sys2Proof.Stated

/-! ### The parameters and TV -/

theorem acceptWord_par {w : Word} {s t : State} (h : acceptWord w s = .next t) : t.par = s.par := by
  obtain ⟨c, -, rfl⟩ | ⟨i, v, -, -, rfl⟩ := acceptWord_cases h
  · rfl
  · exact effectOf_par s

/-- Settles O15: an accepted word keeps the parameters, and so do the port and the reset. -/
theorem parametersAreNeverWritten : Obligations.ParametersAreNeverWritten := by
  intro s t hStep
  obtain ⟨-, rfl⟩ | ⟨w, rest, -, ht⟩ | ⟨rest, -, rfl⟩ | ⟨rest, -, rfl⟩ := step_cases hStep
  · rfl
  · exact acceptWord_par (s := advanceTo rest s) ht
  · rfl
  · rfl

/-- An accepted word that changes TV is an INIT with a capacity the block accepts, and TV is set after it. -/
theorem acceptWord_tv {w : Word} {s t : State} (h : acceptWord w s = .next t) :
    t.tv = s.tv ∨ (∃ c, decode w = .ok (.init c) ∧ isCapacity s c = true) ∧ t.tv = true := by
  obtain ⟨c, -, rfl⟩ | ⟨i, v, hDecode, hNone, rfl⟩ := acceptWord_cases h
  · exact .inl rfl
  · by_cases hi : ∃ c, i = .init c
    · obtain ⟨c, rfl⟩ := hi
      exact .inr ⟨⟨c, hDecode, causeUnless_eq_none.1 hNone⟩, construct_tv s c⟩
    · exact .inl (effectOf_field s hi).2.1

theorem step_of_resetNext {s t : State} (h : step s = .next t) (hReset : ResetNext s) :
    ∃ rest, t = resetEvent (advanceTo rest s) := by
  obtain ⟨rest, hInputs⟩ := hReset
  rw [step_reset hInputs] at h
  cases h
  exact ⟨rest, rfl⟩

/-- TV = 0 rejects every command that needs the tables or T (R202). -/
theorem rejectionOf_of_not_tv {s : State} (h : s.tv = false) {i : Instr}
    (hi : i ∈ [.synd, .disc, .bma, .chien, .recover] ∨ (∃ a b, i = .gfmul a b) ∨
      ∃ a, i = .gfinv a ∨ i = .gflog a ∨ i = .gfexp a) : rejectionOf s i = some .notInit := by
  have hNot : causeUnless s.tv .notInit = some .notInit := causeUnless_eq_some.2 ⟨h, rfl⟩
  simp only [List.mem_cons, List.not_mem_nil, or_false] at hi
  obtain (rfl | rfl | rfl | rfl | rfl) | ⟨a, b, rfl⟩ | ⟨a, rfl | rfl | rfl⟩ := hi <;> exact hNot

/-- Settles O17: of all the outcomes of a step, a reset alone clears TV, and an executed INIT alone sets it. -/
theorem tablesValidIsSetByInitAndClearedByReset : Obligations.TablesValidIsSetByInitAndClearedByReset := by
  refine ⟨fun s t hStep hReset => ?_, fun s t c hExec hPos hLe => ?_, fun s t hStep hSet hClear => ?_,
    fun s t w rest hOffers hStep hClear hSet => ?_, fun s i hClear hi => ?_⟩
  · obtain ⟨rest, rfl⟩ := step_of_resetNext hStep hReset
    rfl
  · rw [exec, execInit, whenOperand_of_ok (isCapacity_iff.2 ⟨hPos, hLe⟩)] at hExec
    cases hExec
    exact construct_tv s c
  · have hne : t.tv ≠ s.tv := by rw [hSet, hClear]; decide
    obtain ⟨-, rfl⟩ | ⟨w, rest, -, ht⟩ | ⟨rest, -, rfl⟩ | ⟨rest, hReset, -⟩ := step_cases hStep
    · exact absurd rfl hne
    · obtain hSame | ⟨-, hInit⟩ := acceptWord_tv ht
      · exact absurd hSame hne
      · exact absurd (hInit.trans hSet.symm) hne
    · exact absurd rfl hne
    · exact ⟨rest, hReset⟩
  · rw [step_command_none hOffers.1 hOffers.2] at hStep
    obtain hSame | ⟨⟨c, hDecode, hCapacity⟩, -⟩ := acceptWord_tv hStep
    · exact absurd (hSet.symm.trans (hSame.trans hClear)) Bool.noConfusion
    · obtain ⟨hPos, hLe⟩ := isCapacity_iff.1 hCapacity
      exact ⟨c, hDecode, hPos, hLe⟩
  · rw [exec_of_rejection (rejectionOf_of_not_tv hClear hi), reject_eq_rejected]
    rfl

/-! ### Reset -/

/-- Settles O12: both actions end in the same reset event, whose vectors are zeros and e0. -/
theorem resetLeavesTheStatedValues : Obligations.ResetLeavesTheStatedValues := by
  intro s rest hInputs
  exact ⟨resetEvent (advanceTo rest s), step_reset hInputs, rfl, rfl, rfl, rfl,
    List.length_replicate, elem_replicate_zero _, List.length_replicate, elem_replicate_zero _,
    length_unitVector _, elem_unitVector _, length_unitVector _, elem_unitVector _,
    rfl, rfl, rfl, rfl, rfl, rfl, rfl, fun _ => rfl⟩

/-- Settles O57, by the same reset event. -/
theorem resetKeepsTheHostsRecordAndTheParameters : Obligations.ResetKeepsTheHostsRecordAndTheParameters := by
  intro s rest hInputs
  exact ⟨resetEvent (advanceTo rest s), step_reset hInputs, rfl, rfl, rfl, rfl⟩

end Sys2Proof.Machine
end

section
/-! The record of rejections (10_state.md R39, R40). The cause table of R202 is written over the fields of the word, so its
column is first brought to the decoded command: a word decodes exactly when it is a row of the opcode table (30_encoding.md
R81, R83, R87), and then its fields are the command's. -/

namespace Sys2Proof.Machine

open Sys2Proof.Stated

/-! ### The rows of the opcode table and the decoder -/

/-- A word under the test of R81 for this opcode. -/
def MatchesOpcode (w : Word) (op : Opcode) : Prop := w &&& op.format.mask = op.match32

theorem mem_tableRows (op : Opcode) : (op.match32, op.format.mask) ∈ tableRows := by
  cases op <;> decide

theorem exists_opcode_of_mem_tableRows {r : Word × Word} (h : r ∈ tableRows) :
    ∃ op : Opcode, r = (op.match32, op.format.mask) := by
  have hRows : tableRows = [Opcode.nop, .init, .clrerr, .gfmul, .gfinv, .gflog, .gfexp, .synd, .disc, .bma, .chien,
      .recover, .wrdata, .rddata, .setdlen, .wrref, .rdref, .setrlen, .rdsyn, .rddisc, .rdsig, .rdosig,
      .rdreg].map fun op => (op.match32, op.format.mask) := by decide
  rw [hRows] at h
  obtain ⟨op, -, hOp⟩ := List.mem_map.1 h
  exact ⟨op, hOp.symm⟩

theorem inTable_iff (w : Word) : inTable w = true ↔ ∃ op : Opcode, MatchesOpcode w op := by
  simp only [inTable, List.any_eq_true, beq_iff_eq]
  constructor
  · rintro ⟨r, hMem, hMatch⟩
    obtain ⟨op, rfl⟩ := exists_opcode_of_mem_tableRows hMem
    exact ⟨op, hMatch⟩
  · rintro ⟨op, hMatch⟩
    exact ⟨_, mem_tableRows op, hMatch⟩

/-- Every mask fixes OPC (R81). -/
theorem opcOf_eq_bits {w : Word} {op : Opcode} (h : MatchesOpcode w op) : opcOf w = op.bits := by
  have hMask : opcOf op.format.mask = BitVec.allOnes 6 := by cases op <;> decide
  have hMatch : opcOf op.match32 = op.bits := by cases op <;> decide
  have hAnd : opcOf (w &&& op.format.mask) = opcOf w &&& opcOf op.format.mask := BitVec.extractLsb'_and
  rw [← hMatch, ← h, hAnd, hMask, BitVec.and_allOnes]

theorem decode_of_matchesOpcode {w : Word} {op : Opcode} (h : MatchesOpcode w op) :
    decode w = .ok (op.withOperands (xOf w) (yOf w)) := by
  rw [decode, opcOf_eq_bits h, ofBits_bits]
  exact if_pos h

theorem matchesOpcode_of_decode {w : Word} {i : Instr} (h : decode w = .ok i) :
    ∃ op : Opcode, MatchesOpcode w op ∧ i = op.withOperands (xOf w) (yOf w) := by
  unfold decode at h
  split at h
  · cases h
  · next op _ =>
    split at h
    · next hMatch =>
      cases h
      exact ⟨op, hMatch, rfl⟩
    · cases h

theorem decode_eq_error_iff (w : Word) : (∃ e, decode w = .error e) ↔ inTable w = false := by
  rw [← Bool.not_eq_true, inTable_iff]
  constructor
  · rintro ⟨e, he⟩ ⟨op, hMatch⟩
    rw [decode_of_matchesOpcode hMatch] at he
    cases he
  · intro hNone
    cases hd : decode w with
    | error e => exact ⟨e, rfl⟩
    | ok i =>
      obtain ⟨op, hMatch, -⟩ := matchesOpcode_of_decode hd
      exact absurd ⟨op, hMatch⟩ hNone

/-! ### The fields of a word read off its number (R80) -/

theorem X_eq_xOf (w : Word) : X w = xOf w := by
  apply BitVec.eq_of_toNat_eq
  simp [X, xOf, Nat.shiftRight_eq_div_pow]

theorem Y_eq_yOf (w : Word) : Y w = yOf w := by
  apply BitVec.eq_of_toNat_eq
  simp [Y, yOf]

theorem opc_eq_bits {w : Word} {op : Opcode} (h : MatchesOpcode w op) : w.toNat / 2 ^ 26 = op.bits.toNat := by
  have hlt := w.isLt
  rw [← opcOf_eq_bits h, opcOf, BitVec.extractLsb'_toNat, Nat.shiftRight_eq_div_pow]
  omega

/-! ### The cause table (R202, R203) -/

/-- The CAUSE of an outcome: 0 is NONE (R201). -/
def causeCode : Option Cause → BitVec 4
  | none => 0
  | some c => c.code

theorem causeCode_eq_zero_iff {r : Option Cause} : causeCode r = 0 ↔ r = none := by
  cases r with
  | none => exact iff_of_true rfl rfl
  | some c => cases c <;> simp [causeCode, Cause.code]

/-- A check, and the column entry that says when it fails. -/
theorem ite_eq_causeCode {ok : Bool} {c : Cause} {P : Prop} [Decidable P] (h : ok = true ↔ ¬ P) :
    (if P then c.code else 0) = causeCode (causeUnless ok c) := by
  by_cases hP : P
  · rw [if_pos hP, causeUnless, if_neg fun hOk => h.1 hOk hP]; rfl
  · rw [if_neg hP, causeUnless, if_pos (h.2 hP)]; rfl

theorem causeOf_of_matchesOpcode (s : State) {w : Word} {op : Opcode} (h : MatchesOpcode w op) :
    causeOf s.par s.tv w = causeCode (rejectionOf s (op.withOperands (xOf w) (yOf w))) := by
  have hTable : inTable w = true := (inTable_iff w).2 ⟨op, h⟩
  have hReady : (if s.tv then 0 else 2) = causeCode (causeUnless s.tv .notInit) := by cases s.tv <;> rfl
  unfold causeOf
  rw [hTable, opc_eq_bits h, X_eq_xOf, Y_eq_yOf]
  cases op with
  | nop | clrerr => rfl
  | init =>
    refine ite_eq_causeCode (c := .badCfg) (isCapacity_iff.trans ?_)
    omega
  | gfmul | gfinv | gflog | gfexp | synd | disc | bma | chien | recover => exact hReady
  | rdreg =>
    refine ite_eq_causeCode (c := .range) ?_
    rw [regView_isSome, decide_eq_true_iff, Nat.not_lt]
  | wrdata | rddata =>
    refine ite_eq_causeCode (c := .range) ?_
    rw [inDbuf, decide_eq_true_iff, Nat.not_le]
  | setdlen | setrlen | wrref | rdref | rdsyn | rddisc | rdsig | rdosig =>
    exact ite_eq_causeCode (c := .range) (decide_eq_true_iff.trans Nat.not_lt.symm)

/-- The column of R202 for a word is the rejection of the command it decodes to, or ILLEGAL. -/
theorem causeOf_eq_causeCode (s : State) (w : Word) : causeOf s.par s.tv w = causeCode (wordRejection s w) := by
  cases hd : decode w with
  | error e =>
    rw [causeOf, (decode_eq_error_iff w).1 ⟨e, hd⟩, wordRejection, hd]
    rfl
  | ok i =>
    obtain ⟨op, hMatch, rfl⟩ := matchesOpcode_of_decode hd
    rw [wordRejection, hd]
    exact causeOf_of_matchesOpcode s hMatch

/-! ### ERR and ECODE over a step -/

theorem decode_eq_clrerr_iff (w : Word) : decode w = .ok .clrerr ↔ w = 0x08000000 := by
  constructor
  · intro h
    obtain ⟨op, hMatch, hOp⟩ := matchesOpcode_of_decode h
    cases op with
    | clrerr => exact (BitVec.and_allOnes).symm.trans hMatch
    | _ => cases hOp
  · rintro rfl
    decide

/-- An accepted word: CLRERR clears the record, a rejection makes its entry, and nothing else touches it. -/
theorem acceptWord_record {w : Word} {s t : State} (h : acceptWord w s = .next t) :
    (w = 0x08000000 → t.err = false ∧ t.ecode = 0) ∧
    (w ≠ 0x08000000 → causeOf s.par s.tv w = 0 → t.err = s.err ∧ t.ecode = s.ecode) ∧
    (causeOf s.par s.tv w ≠ 0 →
      t.err = true ∧ t.ecode = if s.ecode = 0 then causeOf s.par s.tv w else s.ecode) := by
  rw [causeOf_eq_causeCode]
  obtain ⟨c, hc, rfl⟩ | ⟨i, v, hDecode, hNone, rfl⟩ := acceptWord_cases h
  · rw [hc]
    refine ⟨fun hw => ?_, fun _ hZero => ?_, fun _ => ⟨rfl, rfl⟩⟩
    · rw [wordRejection, (decode_eq_clrerr_iff w).2 hw] at hc
      cases hc
    · cases causeCode_eq_zero_iff.1 hZero
  · have hZero : causeCode (wordRejection s w) = 0 := by
      rw [wordRejection, hDecode]
      exact causeCode_eq_zero_iff.2 hNone
    refine ⟨fun hw => ?_, fun hw _ => ?_, fun hne => absurd hZero hne⟩
    · rw [(decode_eq_clrerr_iff w).2 hw] at hDecode
      cases hDecode
      exact ⟨rfl, rfl⟩
    · refine effectOf_record s fun hi => hw ?_
      rwa [hi, decode_eq_clrerr_iff] at hDecode

/-- Settles O8: the outcomes of a step by the host's next action, and an accepted word by its column of R202. -/
theorem errorRecordIsStickyUntilCleared : Obligations.ErrorRecordIsStickyUntilCleared := by
  intro s t hStep
  refine ⟨fun hReset => ?_, fun w rest hOffers => ?_, fun hNoReset hNoWord => ?_⟩
  · obtain ⟨rest, rfl⟩ := step_of_resetNext hStep hReset
    exact ⟨rfl, rfl⟩
  · rw [step_command_none hOffers.1 hOffers.2] at hStep
    exact acceptWord_record (s := advanceTo rest s) hStep
  · obtain ⟨-, rfl⟩ | ⟨w, rest, hOffers, -⟩ | ⟨rest, -, rfl⟩ | ⟨rest, hReset, -⟩ := step_cases hStep
    · exact ⟨rfl, rfl⟩
    · exact absurd hOffers.1 (hNoWord w rest)
    · exact ⟨rfl, rfl⟩
    · exact absurd ⟨rest, hReset⟩ hNoReset

end Sys2Proof.Machine
end

section
/-! The reads of R68: none of them has an effect besides its response, so an executed read leaves every element, and a
rejected one leaves what R200 leaves. -/

namespace Sys2Proof.Machine

open Sys2Proof.Stated

/-- R85: the response of an executed command has REJ = 0, since VALUE has 16 bits. -/
theorem rejBit_executed (v : Half) : rejBit (executed v) = false := by
  have hlt := v.isLt
  rw [rejBit, executed, decide_eq_false_iff_not, BitVec.toNat_setWidth]
  omega

theorem effectOf_of_isRead (s : State) {i : Instr} (h : isRead i = true) : effectOf s i = s := by
  cases i with
  | rddata | rdref | rdsyn | rddisc | rdsig | rdosig | rdreg | gfexp | gflog => rfl
  | _ => cases h

/-- Settles O19: a read is rejected, with REJ = 1, or executes, with REJ = 0 and no effect. -/
theorem readsHaveNoSideEffect : Obligations.ReadsHaveNoSideEffect := by
  intro i s hRead
  cases hc : rejectionOf s i with
  | some c =>
    have hRej := rejBit_responseWord_of_reject c
    exact ⟨reject c s, responseWord true c.code 0, exec_of_rejection hc, reject_rsp s c,
      fun hNot => absurd (hNot.symm.trans hRej) Bool.false_ne_true, fun _ => rfl⟩
  | none =>
    obtain ⟨v, hExec⟩ := exec_of_no_rejection hc
    rw [effectOf_of_isRead s hRead, respond_eq] at hExec
    exact ⟨_, executed v, hExec, rfl, fun _ => rfl,
      fun hRej => absurd ((rejBit_executed v).symm.trans hRej) Bool.false_ne_true⟩

end Sys2Proof.Machine
end

section
/-! Encoding and decoding (30_encoding.md R80 to R91). An encoded command meets its opcode's test and holds its operands, so
it decodes to itself; a word that meets the test has nothing outside OPC and the fields its format uses, so it is the encoded
command. -/

namespace Sys2Proof.Machine

open Sys2Proof.Stated

/-! ### Decoding an encoded command -/

theorem toNat_xLow (x : Half) : (xLow x).toNat = x.toNat % 2 ^ 8 := by
  rw [xLow, BitVec.extractLsb'_toNat, Nat.shiftRight_zero]

theorem xLow_setWidth (a : Byte) : xLow (a.setWidth 16) = a := by
  have hlt := a.isLt
  apply BitVec.eq_of_toNat_eq
  rw [toNat_xLow, BitVec.toNat_setWidth]
  omega

theorem matchesOpcode_encode (i : Instr) : MatchesOpcode (encode i) i.opcode := by
  cases i with
  | nop | clrerr | synd | disc | bma | chien | recover => exact fixed_n _ rfl
  | init | gfinv | gflog | gfexp | rdreg => exact fixed_y _ rfl _
  | gfmul => exact fixed_xy8 _ rfl _ _
  | wrdata | wrref => exact fixed_xy _ rfl _ _
  | rddata | setdlen | rdref | setrlen | rdsyn | rddisc | rdsig | rdosig => exact fixed_x _ rfl _

theorem withOperands_fields (i : Instr) : i.opcode.withOperands i.fields.1 i.fields.2 = i := by
  cases i with
  | gfmul a b => exact congrArg (Instr.gfmul · b) (xLow_setWidth a)
  | _ => rfl

theorem decode_encode (i : Instr) : decode (encode i) = .ok i := by
  rw [decode_of_matchesOpcode (matchesOpcode_encode i), encode, xOf_fieldsWord, yOf_fieldsWord, withOperands_fields]

/-- Settles O1: the encoded word meets its opcode's test, and its fields give the operands back. -/
theorem decodeOfEncodeIsTheCommand : Obligations.DecodeOfEncodeIsTheCommand := decode_encode

/-! ### Encoding a decoded word -/

/-- The operand fields as a command of this format holds them: 0 where the format uses none (R81). -/
def usedFields : Format → Half → Byte → Half × Byte
  | .n, _, _ => (0, 0)
  | .y, _, y => (0, y)
  | .xy8, x, y => ((xLow x).setWidth 16, y)
  | .xy, x, y => (x, y)
  | .x, x, _ => (x, 0)

theorem fields_withOperands (op : Opcode) (x : Half) (y : Byte) :
    (op.withOperands x y).fields = usedFields op.format x y := by
  cases op <;> rfl

theorem opcode_withOperands (op : Opcode) (x : Half) (y : Byte) : (op.withOperands x y).opcode = op := by
  cases op <;> rfl

theorem xOf_bit (w : Word) (k : Nat) : (xOf w).getLsbD k = (decide (k < 16) && w.getLsbD (8 + k)) :=
  BitVec.getLsbD_extractLsb' ..

theorem yOf_bit (w : Word) (k : Nat) : (yOf w).getLsbD k = (decide (k < 8) && w.getLsbD k) := by
  rw [yOf, BitVec.getLsbD_extractLsb', Nat.zero_add]

theorem setWidth_xLow_bit (x : Half) (k : Nat) :
    ((xLow x).setWidth 16).getLsbD k = (decide (k < 8) && x.getLsbD k) := by
  rw [xLow, BitVec.getLsbD_setWidth, BitVec.getLsbD_extractLsb', Nat.zero_add]
  grind

/-- In a word that meets the test of R81, OPC and the must-be-zero bits are the opcode's. -/
theorem bit_of_matchesOpcode {w : Word} {op : Opcode} (h : MatchesOpcode w op) {k : Nat} (hk : k < 32) :
    op.format.mask[k] = true → w[k] = (decide (26 ≤ k) && op.bits.getLsbD (k - 26)) := by
  intro hFixed
  rw [← match32_bit op k hk, ← h, BitVec.getElem_and, hFixed, Bool.and_true]

/-- The bits of a command word that its format uses are the fields, and the others are OPC or 0. -/
theorem fieldsWord_usedFields {w : Word} {op : Opcode} (h : MatchesOpcode w op) :
    fieldsWord op.bits (usedFields op.format (xOf w) (yOf w)).1 (usedFields op.format (xOf w) (yOf w)).2 = w := by
  ext k hk
  have hFixed := bit_of_matchesOpcode h hk
  rw [fieldsWord_bit]
  cases hf : op.format with
  | n =>
    rw [hf, mask_n_bit] at hFixed
    grind [usedFields]
  | y =>
    rw [hf, mask_y_bit] at hFixed
    grind [usedFields, yOf_bit]
  | xy8 =>
    rw [hf, mask_xy8_bit] at hFixed
    grind [usedFields, xOf_bit, yOf_bit, setWidth_xLow_bit]
  | xy =>
    rw [hf, mask_xy_bit] at hFixed
    grind [usedFields, xOf_bit, yOf_bit]
  | x =>
    rw [hf, mask_x_bit] at hFixed
    grind [usedFields, xOf_bit]

/-- Settles O2: a word that decodes meets the test of its opcode, and the command holds every field the format uses. -/
theorem encodeOfDecodedIsTheWord : Obligations.EncodeOfDecodedIsTheWord := by
  intro w i hDecode
  obtain ⟨op, hMatch, rfl⟩ := matchesOpcode_of_decode hDecode
  rw [encode, opcode_withOperands, fields_withOperands, fieldsWord_usedFields hMatch]

/-! ### The words that decode, and the others -/

/-- Settles O3: both sides say that the word meets the test of some opcode. -/
theorem decodableWordsAreTheTableRows : Obligations.DecodableWordsAreTheTableRows := by
  intro w
  rw [inTable_iff]
  constructor
  · rintro ⟨i, hDecode⟩
    obtain ⟨op, hMatch, -⟩ := matchesOpcode_of_decode hDecode
    exact ⟨op, hMatch⟩
  · rintro ⟨op, hMatch⟩
    exact ⟨_, decode_of_matchesOpcode hMatch⟩

/-- R84: no row has a reserved OPC. -/
theorem inTable_of_reserved {w : Word}
    (h : w.toNat / 2 ^ 26 = 0x03 ∨ (0x0D ≤ w.toNat / 2 ^ 26 ∧ w.toNat / 2 ^ 26 ≤ 0x0F) ∨ 0x1B ≤ w.toNat / 2 ^ 26) :
    inTable w = false := by
  have hDefined : ∀ op : Opcode, ¬ (op.bits.toNat = 0x03 ∨ (0x0D ≤ op.bits.toNat ∧ op.bits.toNat ≤ 0x0F) ∨
      0x1B ≤ op.bits.toNat) := by
    intro op
    cases op <;> decide
  rw [← Bool.not_eq_true, inTable_iff]
  rintro ⟨op, hMatch⟩
  rw [opc_eq_bits hMatch] at h
  exact hDefined op h

theorem step_of_not_inTable {s : State} {w : Word} {rest : List HostAction} (hOffers : Offers s w rest)
    (h : inTable w = false) : step s = .next (rejected 1 { s with inputs := rest }) := by
  obtain ⟨e, hError⟩ := (decode_eq_error_iff w).2 h
  rw [step_command_none hOffers.1 hOffers.2, acceptWord_error hError, reject_eq_rejected]
  rfl

/-- Settles O5: a reserved OPC is in no row, and a word in no row does not decode. -/
theorem reservedEncodingsAreIllegal : Obligations.ReservedEncodingsAreIllegal :=
  ⟨fun _ _ _ hOffers hReserved => step_of_not_inTable hOffers (inTable_of_reserved hReserved),
    fun _ _ _ hOffers hNone => step_of_not_inTable hOffers hNone,
    fun w => (decodableWordsAreTheTableRows w).2⟩

/-- Settles O4, by running the decoder on the nine words. -/
theorem sampleWordsDecode : Obligations.SampleWordsDecode := by
  unfold Obligations.SampleWordsDecode
  decide

end Sys2Proof.Machine
end

section
/-! The assembler's lines (30_encoding.md R89, R90): an accepted line's words are encoded commands, which decode to
themselves. -/

namespace Sys2Proof.Machine

theorem assembleLine_of_wf {a : AsmLine} (h : a.wf = true) : assembleLine a = some (lineWords a) := if_pos h

theorem assembleLine_of_not_wf {a : AsmLine} (h : a.wf = false) : assembleLine a = none :=
  if_neg (Bool.eq_false_iff.1 h)

theorem xLow_ofNat (a : Nat) : xLow (BitVec.ofNat 16 a) = BitVec.ofNat 8 a := by
  apply BitVec.eq_of_toNat_eq
  rw [toNat_xLow, BitVec.toNat_ofNat, BitVec.toNat_ofNat]
  omega

/-- Settles O55: a command line's word is encoded, so it decodes to the command of its operands. -/
theorem assembledCommandsDecode : Obligations.AssembledCommandsDecode :=
  ⟨fun _ _ hFit => ⟨_, assembleLine_of_wf hFit, decode_encode _⟩,
    fun _ _ hMisfit => assembleLine_of_not_wf hMisfit,
    fun a b => .inl (congrArg (Instr.gfmul · (BitVec.ofNat 8 b)) (xLow_ofNat a)),
    fun _ _ => rfl, fun _ => ⟨rfl, rfl⟩⟩

theorem runFits_iff {first : Nat} {vs : List Nat} :
    runFits first vs = true ↔ vs ≠ [] ∧ (∀ v ∈ vs, v < 2 ^ 8) ∧ first + (vs.length - 1) ≤ 0xFFFF := by
  simp [runFits, and_assoc]

@[simp] theorem length_storeRun (store : Half → Byte → Instr) (first : Nat) (vs : List Nat) :
    (storeRun store first vs).length = vs.length := by
  induction vs generalizing first with
  | nil => rfl
  | cons v vs ih => exact congrArg (· + 1) (ih (first + 1))

theorem decode_getD_storeRun (store : Half → Byte → Instr) (first : Nat) {vs : List Nat} {k : Nat}
    (hk : k < vs.length) :
    decode ((storeRun store first vs).getD k 0) =
      .ok (store (BitVec.ofNat 16 (first + k)) (BitVec.ofNat 8 (vs.getD k 0))) := by
  induction vs generalizing first k with
  | nil => cases hk
  | cons v vs ih =>
    cases k with
    | zero => exact decode_encode _
    | succ k =>
      have hNext := ih (first + 1) (Nat.lt_of_succ_lt_succ hk)
      rwa [Nat.add_right_comm] at hNext

/-- Settles O56: the words of a run are the encoded stores at rising indices, and a line is an error when its last index
does not fit 16 bits. -/
theorem pseudoInstructionsExpand : Obligations.PseudoInstructionsExpand := by
  refine ⟨fun first vs hNonempty hBytes hLast => ?_, fun vs hNonempty hBytes hLength => ?_, fun first vs hLast => ?_⟩
  · have hFits : runFits first vs = true := runFits_iff.2 ⟨hNonempty, hBytes, hLast⟩
    exact ⟨_, _, assembleLine_of_wf hFits, assembleLine_of_wf hFits, length_storeRun .wrdata first vs,
      length_storeRun .wrref first vs,
      fun k hk => ⟨decode_getD_storeRun .wrdata first hk, decode_getD_storeRun .wrref first hk⟩⟩
  · have hFits : runFits 0 vs = true := runFits_iff.2 ⟨hNonempty, hBytes, by omega⟩
    have hSetbuf : (AsmLine.setbuf vs).wf = true := by simp [AsmLine.wf, hFits, hLength]
    exact ⟨_, _, assembleLine_of_wf hFits, assembleLine_of_wf hSetbuf, decode_encode _⟩
  · refine assembleLine_of_not_wf (Bool.eq_false_iff.2 fun hFits => ?_)
    obtain ⟨-, -, hBound⟩ := runFits_iff.1 hFits
    omega

end Sys2Proof.Machine
end

section
/-! The encoding of one command as its rule states it (30_encoding.md R81, R84): OPC selects the opcode, and the must-be-zero
bits of its format decide between the command and ILLEGAL. -/

namespace Sys2Proof.Machine

open Sys2Proof.Stated

theorem opcOf_eq_bits_of_opc {w : Word} {op : Opcode} (h : w.toNat / 2 ^ 26 = op.bits.toNat) : opcOf w = op.bits := by
  have hlt := w.isLt
  apply BitVec.eq_of_toNat_eq
  rw [opcOf, BitVec.extractLsb'_toNat, Nat.shiftRight_eq_div_pow, h, Nat.mod_eq_of_lt op.bits.isLt]

theorem match32_eq_and (w : Word) {op : Opcode} (h : opcOf w = op.bits) : op.match32 = w &&& 0xFC000000 := by
  have hMask : ∀ k, (hk : k < 32) → (0xFC000000 : Word)[k] = decide (26 ≤ k) := by decide
  ext k hk
  rw [match32_bit, BitVec.getElem_and, hMask, ← h, opcOf, BitVec.getLsbD_extractLsb']
  grind

theorem and_or_eq_and_iff {w a b : Word} (h : a &&& b = 0) : w &&& (a ||| b) = w &&& a ↔ w &&& b = 0 := by
  constructor
  · intro hEq
    calc w &&& b = w &&& (a ||| b) &&& b := by ext; grind
      _ = w &&& (a &&& b) := by rw [hEq, BitVec.and_assoc]
      _ = 0 := by rw [h]; exact BitVec.and_zero
  · intro hZero
    rw [BitVec.and_or_distrib_left, hZero]
    exact BitVec.or_zero

/-- The fixed bits of a format are OPC and its must-be-zero bits (R81), so a word with this OPC meets the test when the
latter are 0. -/
theorem matchesOpcode_iff {w : Word} {op : Opcode} (h : opcOf w = op.bits) :
    MatchesOpcode w op ↔ w &&& (op.format.mask &&& 0x03FFFFFF) = 0 := by
  have hMask : op.format.mask = 0xFC000000 ||| (op.format.mask &&& 0x03FFFFFF) := by cases op <;> decide
  rw [MatchesOpcode, match32_eq_and w h]
  conv_lhs => rw [hMask]
  exact and_or_eq_and_iff (by cases op <;> decide)

theorem encoded_withOperands (op : Opcode) :
    Encoded op.bits.toNat (op.format.mask &&& 0x03FFFFFF) fun w => op.withOperands (X w) (Y w) := by
  simp only [X_eq_xOf, Y_eq_yOf]
  intro s w rest hOffers hOpc
  have hBits := opcOf_eq_bits_of_opc hOpc
  rw [step_command_none hOffers.1 hOffers.2, ne_eq, ← matchesOpcode_iff hBits]
  refine ⟨fun hMatch => acceptWord_ok (decode_of_matchesOpcode hMatch) _, fun hMisfit => ?_⟩
  have hDecode : decode w = .error .nonzeroFixedBits := by
    rw [decode, hBits, ofBits_bits]
    exact if_neg hMisfit
  rw [acceptWord_error hDecode, reject_eq_rejected]
  rfl

end Sys2Proof.Machine
end

section
/-! INIT and the tables it leaves (40_field_tables.md R101 to R104). An accepted INIT answers with `construct`, whose tables
are those of R102 whatever the memories held; that they are inverse to each other is read off the powers of α. -/

namespace Sys2Proof.Machine

open Sys2Proof.Stated

/-! ### The two outcomes of INIT (R103) -/

theorem exec_init_of_capacity {s : State} {c : Byte} (hPos : 1 ≤ c.toNat) (hLe : c.toNat ≤ s.par.tmax) :
    exec (.init c) s = .next (respond 0 (construct c s)) :=
  whenOperand_of_ok (isCapacity_iff.2 ⟨hPos, hLe⟩) ..

theorem exec_init_of_not_capacity {s : State} {c : Byte} (h : c.toNat = 0 ∨ s.par.tmax < c.toNat) :
    exec (.init c) s = .next (reject .badCfg s) := by
  have hNot : isCapacity s c = false := by
    rw [Bool.eq_false_iff, ne_eq, isCapacity_iff]
    omega
  exact whenOperand_of_not_ok hNot ..

theorem unitVector_succ (n : Nat) : unitVector (n + 1) = 1 :: List.replicate n 0 := rfl

/-- Settles O22: INIT answers with `construct` inside the range of capacities and with BADCFG outside it, and format Y
leaves the must-be-zero bits 25 to 8. -/
theorem initConstructsAnInstance : Obligations.InitConstructsAnInstance := by
  refine ⟨fun s c hPos hLe => ⟨_, exec_init_of_capacity hPos hLe, ?_, fun ha hi => ?_⟩, fun s c h => ?_,
    encoded_withOperands .init⟩
  · rw [respond_eq, construct, unitVector_succ]
  · rw [respond_tables, construct_tables, buildTables_eq_standardTables ha hi]
  · rw [exec_init_of_not_capacity h, reject_eq_rejected]
    rfl

/-! ### The tables after an accepted INIT (R102, R104) -/

theorem exec_init_tables {s : State} {c : Byte} (ha : s.tables.alphaTo.length = 256) (hi : s.tables.indexOf.length = 256)
    (hPos : 1 ≤ c.toNat) (hLe : c.toNat ≤ s.par.tmax) : ∃ t, exec (.init c) s = .next t ∧ t.tables = standardTables :=
  ⟨_, exec_init_of_capacity hPos hLe, buildTables_eq_standardTables ha hi⟩

/-- Settles O23: the standard tables are the two that R102 prints. -/
theorem initBuildsThePrintedTables : Obligations.InitBuildsThePrintedTables := by
  intro s c ha hi hPos hLe
  obtain ⟨t, hExec, hTables⟩ := exec_init_tables ha hi hPos hLe
  exact ⟨t, hExec, congrArg Tables.alphaTo hTables, congrArg Tables.indexOf hTables⟩

/-! ### The two tables are inverse to each other (R101) -/

theorem elem_powerTable_eq_alphaPow {i : Nat} (h : i ≤ 255) : elem powerTable i = alphaPow i := by
  obtain hLt | rfl := Nat.lt_or_eq_of_le h
  · rw [alphaPow, Nat.mod_eq_of_lt hLt]
  · rfl

/-- The logarithm of a nonzero element is less than 255, the code of −1. -/
theorem elem_logTable_eq_code_iff (a : Byte) : elem logTable a.toNat = 0xFF ↔ a = 0 := by
  constructor
  · intro hCode
    by_contra ha
    obtain ⟨n, rfl⟩ := exists_alphaPow ha
    have hLog : (elem logTable (alphaPow n).toNat).toNat = n % 255 := toNat_indexOf_alphaPow n
    rw [hCode] at hLog
    exact absurd (Nat.mod_lt n (by decide : 255 > 0)) (hLog ▸ by decide)
  · rintro rfl
    rfl

/-- Settles O24: ALPHA_TO holds the powers of α, and INDEX_OF their exponents. -/
theorem tablesAreMutualInverses : Obligations.TablesAreMutualInverses := by
  intro s c ha hi hPos hLe
  obtain ⟨t, hExec, hTables⟩ := exec_init_tables ha hi hPos hLe
  refine ⟨t, hExec, ?_⟩
  rw [hTables]
  refine ⟨fun i hi => ?_, fun a ha => ?_, fun i hi => ?_, rfl, rfl, elem_logTable_eq_code_iff⟩
  · have hLog := toNat_indexOf_alphaPow i
    rwa [← elem_powerTable_eq_alphaPow (by omega), Nat.mod_eq_of_lt (by omega)] at hLog
  · obtain ⟨n, rfl⟩ := exists_alphaPow ha
    rw [entry_eq_elem, entry_eq_elem, toNat_indexOf_alphaPow]
    rfl
  · rw [entry_eq_elem, standardTables, elem_powerTable_eq_alphaPow hi]
    exact alphaPow_ne_zero i

end Sys2Proof.Machine
end

section
/-! The commands of the field arithmetic (41_field_arith.md R110 to R115, R117): with TV = 1 each answers its value and
changes nothing else, with TV = 0 it is rejected, and on a constructed block the value obeys the laws of GF(2^8). -/

namespace Sys2Proof.Machine

open Sys2Proof.Stated

/-! ### The two outcomes of an arithmetic command (R112 to R115) -/

theorem whenReady_respond {s : State} (h : s.tv = true) {v w : Half} (hv : v = w) :
    whenReady s (respond v s) = .next { s with rsp := some (executed w) } := by
  rw [whenReady_of_tv h, respond_eq, hv]

theorem whenReady_rejected {s : State} (h : s.tv = false) (done : State) :
    whenReady s done = .next (rejected 2 s) := by
  rw [whenReady_of_not_tv h, reject_eq_rejected]
  rfl

/-! ### GFMUL (R110, R112) -/

theorem XLow_eq_xLow_X (w : Word) : XLow w = xLow (X w) := by
  apply BitVec.eq_of_toNat_eq
  rw [toNat_xLow, XLow, X, BitVec.toNat_ofNat, BitVec.toNat_ofNat, Nat.mod_mod_of_dvd _ (by decide)]

theorem State.Ready.exec_gfmul {s : State} (h : s.Ready) (a b : Byte) {v : Byte}
    (hv : gfmul standardTables a b = v) :
    exec (.gfmul a b) s = .next { s with rsp := some (executed (zext16 v)) } :=
  whenReady_respond h.tv (by rw [h.tables_eq, hv])

/-- Settles O25: the corner cases are the laws of `gfmul` for 0, for 1 and for the order of the operands. -/
theorem gfmulRespondsWithTheProduct : Obligations.GfmulRespondsWithTheProduct := by
  refine ⟨fun s a b h => whenReady_respond h rfl, fun s a b h => whenReady_rejected h _, fun s a b h => ⟨?_, ?_, ?_, ?_⟩,
    ?_⟩
  · exact h.exec_gfmul a 0 (gfmul_zero_right _ a)
  · exact h.exec_gfmul 0 b (gfmul_zero_left _ b)
  · exact h.exec_gfmul 1 b (gfmul_one_left b)
  · rw [h.exec_gfmul a b (gfmul_comm _ a b), h.exec_gfmul b a rfl]
  · simp only [XLow_eq_xLow_X]
    exact encoded_withOperands .gfmul

/-! ### GFINV (R111, R113) -/

theorem gfinv_gfinv (a : Byte) : gfinv standardTables (gfinv standardTables a) = a := by
  by_cases ha : a = 0
  · rw [ha]
    rfl
  · obtain ⟨n, rfl⟩ := exists_alphaPow ha
    rw [gfinv_alphaPow, gfinv_alphaPow, alphaPow_eq_iff]
    omega

theorem State.Ready.exec_gfinv {s : State} (h : s.Ready) (a : Byte) {v : Byte} (hv : gfinv standardTables a = v) :
    exec (.gfinv a) s = .next { s with rsp := some (executed (zext16 v)) } :=
  whenReady_respond h.tv (by rw [h.tables_eq, hv])

/-- Settles O26: 0 and 1 are their own inverses, and the inverse of α^n is α^(255 − n). -/
theorem gfinvRespondsWithTheInverse : Obligations.GfinvRespondsWithTheInverse := by
  refine ⟨fun s a h => whenReady_respond h rfl, fun s a h => whenReady_rejected h _, fun s a h => ⟨?_, ?_, ?_⟩,
    encoded_withOperands .gfinv⟩
  · exact h.exec_gfinv 0 rfl
  · exact h.exec_gfinv 1 gfinv_one
  · exact h.exec_gfinv _ (by rw [inv_eq_gfinv, h.tables_eq, gfinv_gfinv])

/-! ### GFLOG (R114) -/

theorem gflog_zero (tb : Tables) : gflog tb 0 = 0xFFFF := if_pos rfl

theorem gflog_of_ne_zero (tb : Tables) {a : Byte} (h : a ≠ 0) : gflog tb a = zext16 (elem tb.indexOf a.toNat) :=
  if_neg h

theorem toNat_indexOf_le {a : Byte} (h : a ≠ 0) : (elem standardTables.indexOf a.toNat).toNat ≤ 254 := by
  obtain ⟨n, rfl⟩ := exists_alphaPow h
  rw [toNat_indexOf_alphaPow]
  omega

/-- Settles O27: the logarithm of a nonzero element is the exponent of a power of α, reduced modulo 255. -/
theorem gflogRespondsWithTheLogarithm : Obligations.GflogRespondsWithTheLogarithm := by
  refine ⟨fun s h => whenReady_respond h (gflog_zero _), fun s a h ha => whenReady_respond h (gflog_of_ne_zero _ ha),
    fun s a h => whenReady_rejected h _, fun s a h ha => ?_, encoded_withOperands .gflog⟩
  rw [entry_eq_elem, h.tables_eq]
  exact toNat_indexOf_le ha

/-! ### GFEXP (R115) -/

theorem elem_alphaTo_toNat (k : Byte) : elem standardTables.alphaTo k.toNat = alphaPow k.toNat :=
  elem_powerTable_eq_alphaPow (Nat.le_of_lt_succ k.isLt)

theorem State.Ready.exec_gfexp {s : State} (h : s.Ready) (k : Byte) :
    exec (.gfexp k) s = .next { s with rsp := some (executed (zext16 (alphaPow k.toNat))) } :=
  whenReady_respond h.tv (by rw [h.tables_eq, elem_alphaTo_toNat])

/-- Settles O28: ALPHA_TO holds the powers of α, none of which is 0. -/
theorem gfexpRespondsWithThePower : Obligations.GfexpRespondsWithThePower := by
  refine ⟨fun s k h => whenReady_respond h rfl, fun s k h => whenReady_rejected h _, fun s k h => ⟨?_, ?_, ?_⟩,
    encoded_withOperands .gfexp⟩
  · exact h.exec_gfexp 255
  · exact h.exec_gfexp 0
  · rw [entry_eq_elem, h.tables_eq, elem_alphaTo_toNat]
    exact alphaPow_ne_zero k.toNat

/-! ### The polynomial product (R117) -/

/-- Two conditional subtractions of m cancel when both happen. -/
theorem ite_xor_xor_ite (x y : Bool) (v w m : BitVec 16) :
    (if x then v ^^^ m else v) ^^^ (if y then w ^^^ m else w) = if x ^^ y then v ^^^ w ^^^ m else v ^^^ w := by
  have hCancel : v ^^^ m ^^^ (w ^^^ m) = v ^^^ w := by
    rw [BitVec.xor_comm w, BitVec.xor_assoc, ← BitVec.xor_assoc m, BitVec.xor_self, BitVec.zero_xor]
  cases x <;> cases y
  · rfl
  · exact (BitVec.xor_assoc ..).symm
  · show v ^^^ m ^^^ w = v ^^^ w ^^^ m
    ac_rfl
  · exact hCancel

/-- Reduction is additive: whether a turn subtracts p(x) is read off one bit. -/
theorem reduced_xor (v w : BitVec 16) : reduced (v ^^^ w) = reduced v ^^^ reduced w := by
  unfold reduced
  rw [← BitVec.setWidth_xor]
  congr 1
  refine List.foldl_hom₂ _ (· ^^^ ·) _ _ _ v w fun v w k => ?_
  rw [BitVec.getLsbD_xor, ite_xor_xor_ite]

/-- a·x^k modulo p(x) is a multiplied k times by α. -/
theorem reduced_shiftLeft (a : Byte) {k : Nat} (h : k < 8) :
    reduced (a.setWidth 16 <<< k) = timesAlpha^[k] a := by
  revert a k; decide +kernel

theorem reduced_carrylessProduct (a b : Byte) :
    reduced (carrylessProduct a b) = xorSum 8 fun k => if b.getLsbD k then timesAlpha^[k] a else 0 := by
  have hFold : reduced (carrylessProduct a b) =
      xorSum 8 fun k => if b.getLsbD k then reduced (a.setWidth 16 <<< k) else 0 := by
    refine (List.foldl_hom reduced fun acc k => ?_).symm
    beta_reduce
    split
    · rw [reduced_xor]
    · exact BitVec.xor_zero
  rw [hFold]
  exact xorSum_congr fun k hk => by rw [reduced_shiftLeft a hk]

/-- An element is the sum of the powers of α at its set bits. -/
theorem eq_xorSum_bits (b : Byte) : b = xorSum 8 fun k => if b.getLsbD k then alphaPow k else 0 := by
  revert b; decide +kernel

theorem gfmul_eq_reduced_carrylessProduct (a b : Byte) :
    gfmul standardTables a b = reduced (carrylessProduct a b) := by
  rw [reduced_carrylessProduct]
  conv_lhs => rw [eq_xorSum_bits b, gfmul_xorSum]
  refine xorSum_congr fun k _ => ?_
  split
  · rw [gfmul_comm, gfmul_alphaPow_left]
  · exact gfmul_zero_right _ a

/-- Settles O29: both products are additive in b, and for b = α^k both multiply a by α k times. -/
theorem gfmulIsThePolynomialProduct : Obligations.GfmulIsThePolynomialProduct :=
  fun _ a b h => h.exec_gfmul a b (gfmul_eq_reduced_carrylessProduct a b)

/-! ### The field laws (R117) -/

/-- Settles O30: the tables of a constructed block are the standard ones, whose products and inverses obey the laws. -/
theorem fieldLawsHold : Obligations.FieldLawsHold := by
  intro s h a b c
  rw [h.tables_eq]
  exact ⟨gfmul_comm _ a b, gfmul_zero_right _ a, gfmul_one_left a, gfmul_gfinv, gfmul_assoc a b c, gfmul_xor_right a b c⟩

end Sys2Proof.Machine
end

section
/-! The syndrome evaluator and the discrepancy stage (42_syndrome.md R130 to R134). On a constructed block a syndrome is
the sum of the powers α^(j·q) over the set bits q of the data, so R132 follows from the laws of that sum. -/

namespace Sys2Proof.Machine

open Sys2Proof.Stated

/-! ### SYND (R130, R131) -/

theorem exec_synd_of_tv {s : State} (h : s.tv = true) : exec .synd s = .next (respond 0 (computeSyndromes s)) :=
  whenReady_of_tv h _

theorem elem_syn_eq_syndrome {s : State} (ht : s.t.toNat ≤ s.par.tmax) {j : Nat} (hPos : 1 ≤ j)
    (hLe : j ≤ 2 * s.t.toNat) : elem (computeSyndromes s).syn j = syndrome s j :=
  (elem_computeSyndromes s ht j).trans (if_pos ⟨hPos, hLe⟩)

/-- Settles O31: SYND answers with `computeSyndromes`, and format N leaves the must-be-zero bits 25 to 0. -/
theorem syndEvaluatesTheSyndromes : Obligations.SyndEvaluatesTheSyndromes := by
  refine ⟨fun s h ht => ⟨_, exec_synd_of_tv h, respond_eq 0 _, length_computeSyndromes s, fun j hPos hLe => ?_, ?_,
    fun j hAbove => ?_⟩, fun s h => whenReady_rejected h _, encoded_withOperands .synd⟩
  · rw [syndromeOf_eq_syndrome]
    exact elem_syn_eq_syndrome ht hPos hLe
  · exact (elem_computeSyndromes s ht 0).trans (if_neg (by omega))
  · exact (elem_computeSyndromes s ht j).trans (if_neg (by omega))

/-! ### The syndromes of a constructed block (R132) -/

theorem syndrome_eq_xorSum_alphaPow {s : State} (h : s.tables = standardTables) (j : Nat) :
    syndrome s j = xorSum (8 * s.dlen.toNat) fun q => if bitAt s q then alphaPow (j * q) else 0 := by
  rw [syndrome, h]
  rfl

/-- Settles O32: the sum has one term. -/
theorem singleSetBitGivesItsPowers : Obligations.SingleSetBitGivesItsPowers := by
  intro s p h hp hBits
  refine ⟨_, exec_synd_of_tv h.tv, fun j hPos hLe => ?_⟩
  have hTerm : ∀ q < 8 * s.dlen.toNat, (if bitAt s q then alphaPow (j * q) else 0) =
      if q = p then alphaPow (j * p) else 0 := by
    intro q hq
    rw [← bit_eq_bitAt, hBits q hq]
    by_cases hqp : q = p <;> simp [hqp]
  calc elem (computeSyndromes s).syn j = syndrome s j := elem_syn_eq_syndrome h.t_le_tmax hPos hLe
    _ = xorSum (8 * s.dlen.toNat) fun q => if q = p then alphaPow (j * p) else 0 := by
      rw [syndrome_eq_xorSum_alphaPow h.tables_eq, xorSum_congr hTerm]
    _ = alphaPow (j * p) := xorSum_single hp _

theorem bitAt_of_readDbuf_xor {s u v : State} {q : Nat}
    (h : readDbuf v (q / 8) = readDbuf s (q / 8) ^^^ readDbuf u (q / 8)) : bitAt v q = (bitAt s q ^^ bitAt u q) := by
  rw [bitAt, h, BitVec.getLsbD_xor, ← bitAt, ← bitAt]

theorem ite_xor_eq_xor_ite (x y : Bool) (v : Byte) :
    (if x ^^ y then v else 0) = (if x then v else 0) ^^^ if y then v else 0 := by
  cases x <;> cases y <;> simp

theorem syndrome_of_bitsXor {s u v : State} (hs : s.tables = standardTables) (hu : u.tables = standardTables)
    (hv : v.tables = standardTables) (hLenU : u.dlen = s.dlen) (hLenV : v.dlen = s.dlen)
    (hBits : ∀ q < 8 * s.dlen.toNat, bitAt v q = (bitAt s q ^^ bitAt u q)) (j : Nat) :
    syndrome v j = syndrome s j ^^^ syndrome u j := by
  rw [syndrome_eq_xorSum_alphaPow hs, syndrome_eq_xorSum_alphaPow hu, syndrome_eq_xorSum_alphaPow hv, hLenU, hLenV,
    ← xorSum_xor]
  exact xorSum_congr fun q hq => by rw [hBits q hq, ite_xor_eq_xor_ite]

/-- Settles O33: the bits of the third buffer are the xor of the bits of the first two, and so are the terms. -/
theorem syndromesAreLinear : Obligations.SyndromesAreLinear := by
  intro s u v hs hu hv hLenU hLenV hTU hTV hBytes
  refine ⟨_, _, _, exec_synd_of_tv hs.tv, exec_synd_of_tv hu.tv, exec_synd_of_tv hv.tv, fun j _ => ?_⟩
  have hSyndrome : syndrome v j = syndrome s j ^^^ syndrome u j :=
    syndrome_of_bitsXor hs.tables_eq hu.tables_eq hv.tables_eq hLenU hLenV
      (fun q hq => bitAt_of_readDbuf_xor (hBytes (q / 8) (by omega))) j
  simp only [entry_eq_elem, respond_syn, elem_computeSyndromes _ hs.t_le_tmax, elem_computeSyndromes _ hu.t_le_tmax,
    elem_computeSyndromes _ hv.t_le_tmax, hTU, hTV]
  split
  · exact hSyndrome
  · rfl

/-- Two flips add the same power twice when their positions agree modulo 255. -/
theorem syndrome_of_aliasedFlips {s u : State} {p p' : Nat} (hs : s.tables = standardTables)
    (hu : u.tables = standardTables) (hLen : u.dlen = s.dlen) (hNe : p ≠ p') (hMod : p % 255 = p' % 255)
    (hp : p < 8 * s.dlen.toNat) (hp' : p' < 8 * s.dlen.toNat)
    (hBits : ∀ q < 8 * s.dlen.toNat, bitAt u q = (bitAt s q != decide (q = p ∨ q = p'))) (j : Nat) :
    syndrome u j = syndrome s j := by
  have hFirst : syndrome (flipBit s p) j = syndrome s j ^^^ alphaPow (j * p) :=
    syndrome_of_bitFlipped (s := flipBit s p) hs hs rfl hp (fun q _ => bitAt_flipBit s p q) j
  have hSecond : syndrome u j = syndrome (flipBit s p) j ^^^ alphaPow (j * p') := by
    refine syndrome_of_bitFlipped (o := flipBit s p) hu hs hLen (hLen ▸ hp') (fun q hq => ?_) j
    rw [hBits q (hLen ▸ hq), bitAt_flipBit]
    by_cases hqp : q = p <;> simp [hqp, hNe]
  have hPower : alphaPow (j * p) = alphaPow (j * p') := (alphaPow_eq_iff _ _).2 (Nat.ModEq.mul_left j hMod)
  rw [hSecond, hFirst, hPower, BitVec.xor_assoc, BitVec.xor_self]
  exact BitVec.xor_zero

/-- Settles O34: the second buffer is the first with two flips, whose terms cancel. -/
theorem aliasedPositionsCancel : Obligations.AliasedPositionsCancel := by
  intro s u p p' hs hu hLen hT hNe hMod hp hp' hBits
  refine ⟨_, _, exec_synd_of_tv hs.tv, exec_synd_of_tv hu.tv, fun j _ => ?_⟩
  simp only [entry_eq_elem, respond_syn, elem_computeSyndromes _ hs.t_le_tmax, elem_computeSyndromes _ hu.t_le_tmax, hT,
    syndrome_of_aliasedFlips hs.tables_eq hu.tables_eq hLen hNe hMod hp hp' hBits]

/-- Squaring is additive: the two mixed products cancel. -/
theorem gfmul_self_xor (a b : Byte) : gfmul standardTables (a ^^^ b) (a ^^^ b) =
    gfmul standardTables a a ^^^ gfmul standardTables b b := by
  rw [gfmul_xor_left, gfmul_xor_right, gfmul_xor_right, gfmul_comm _ b a, BitVec.xor_assoc,
    ← BitVec.xor_assoc (gfmul standardTables a b), BitVec.xor_self, BitVec.zero_xor]

theorem gfmul_self_xorSum (n : Nat) (f : Nat → Byte) : gfmul standardTables (xorSum n f) (xorSum n f) =
    xorSum n fun i => gfmul standardTables (f i) (f i) := by
  induction n with
  | zero => rfl
  | succ n ih => rw [xorSum_succ, xorSum_succ, gfmul_self_xor, ih]

theorem syndrome_two_mul {s : State} (h : s.tables = standardTables) (j : Nat) :
    syndrome s (2 * j) = gfmul standardTables (syndrome s j) (syndrome s j) := by
  rw [syndrome_eq_xorSum_alphaPow h, syndrome_eq_xorSum_alphaPow h, gfmul_self_xorSum]
  refine xorSum_congr fun q _ => ?_
  split
  · rw [gfmul_alphaPow, Nat.mul_assoc, Nat.two_mul]
  · exact (gfmul_zero_left _ _).symm

/-- Settles O35: the square of a sum of powers is the sum of the squared powers. -/
theorem evenSyndromesAreSquares : Obligations.EvenSyndromesAreSquares := by
  intro s h
  refine ⟨_, exec_synd_of_tv h.tv, fun j hPos hLe => ?_⟩
  rw [mul_eq_gfmul, entry_eq_elem, entry_eq_elem, respond_syn, elem_syn_eq_syndrome h.t_le_tmax hPos (by omega),
    elem_syn_eq_syndrome h.t_le_tmax (by omega) hLe, syndrome_two_mul h.tables_eq]

/-! ### DISC (R133, R134) -/

theorem exec_disc_of_tv {s : State} (h : s.tv = true) : exec .disc s =
    .next (respond (flagValue (computeDiscrepancy s).nodisc) (computeDiscrepancy s)) :=
  whenReady_of_tv h _

theorem executed_flagValue (f : Bool) : executed (flagValue f) = if f then 1 else 0 := by
  cases f <;> rfl

theorem zeroDiscrepancy_iff (t : Nat) (disc : List Byte) :
    zeroDiscrepancy t disc = true ↔ ∀ i, 1 ≤ i → i ≤ 2 * t → elem disc i = 0 := by
  constructor
  · intro h i hPos hLe
    by_contra hNe
    rw [zeroDiscrepancy_eq_false i hPos hLe hNe] at h
    cases h
  · intro h
    refine List.all_eq_true.2 fun k hk => beq_iff_eq.2 ?_
    exact h (k + 1) (Nat.succ_pos k) (List.mem_range.1 hk)

/-- Settles O36: DISC answers with `computeDiscrepancy`, whose NODISC it responds, and format N leaves the must-be-zero
bits 25 to 0. -/
theorem discComparesWithTheReference : Obligations.DiscComparesWithTheReference := by
  refine ⟨fun s h ht => ⟨_, exec_disc_of_tv h, ?_, length_discrepancies s, fun i hPos hLe => ?_, ?_, fun i hAbove => ?_,
    zeroDiscrepancy_iff _ _⟩, fun s h => whenReady_rejected h _, encoded_withOperands .disc⟩
  · rw [respond_eq, executed_flagValue]
    rfl
  · rw [comparedUpTo_eq_lastCompared] at hLe
    exact (elem_discrepancies s ht i).trans (if_pos ⟨hPos, hLe⟩)
  · exact (elem_discrepancies s ht 0).trans (if_neg (by omega))
  · rw [comparedUpTo_eq_lastCompared] at hAbove
    exact (elem_discrepancies s ht i).trans (if_neg (by omega))

end Sys2Proof.Machine
end

section
/-! The locator engine (43_locator.md R140 to R142): BMA runs the recurrence step by step, every step keeps its registers
in range, and with no discrepancy to follow the recurrence only counts MVAL up. -/

namespace Sys2Proof.Machine

open Sys2Proof.Stated

/-! ### One step as the rule states it (R140) -/

/-- The registers of the recurrence with each vector read entry by entry, as the rule's statement speaks of them. -/
def Recurrence.entries (q : Recurrence) : Bm where
  sigma := elem q.sigma
  osig := elem q.osig
  l := q.l
  mval := q.mval
  b := q.b

theorem elem_unitVector_eq_e0 (n : Nat) : elem (unitVector (n + 1)) = e0 := funext (elem_unitVector n)

theorem entries_start (n : Nat) : (Recurrence.start (n + 1)).entries = bmStart := by
  rw [Recurrence.entries, Recurrence.start, elem_unitVector_eq_e0]
  rfl

theorem bmDiscrepancy_entries (tb : Tables) (t : Nat) (disc : List Byte) (q : Recurrence) (r : Nat) :
    bmDiscrepancy tb t disc q.entries r = stepDiscrepancy tb t disc q r := by
  rw [bmDiscrepancy, xorUpTo_eq_xorSum]
  rfl

/-- The updated and the snapshot vector satisfy the rule's pointwise equations as soon as SIGMA has an entry T. -/
theorem bmStep_recurrenceStep (tb : Tables) {t : Nat} (disc : List Byte) (r : Nat) {q : Recurrence}
    (ht : t < q.sigma.length) : BmStep tb t disc r q.entries (recurrenceStep tb t disc q r).entries := by
  have hSigma := fun c => elem_updateSigma tb t c q ht
  simp only [BmStep, bmDiscrepancy_entries]
  obtain ⟨hd, hq⟩ | ⟨hd, hl, hq⟩ | ⟨hd, hl, hq⟩ := recurrenceStep_cases tb t disc q r
  · rw [hq]
    exact ⟨fun _ => ⟨rfl, rfl, rfl, rfl, rfl⟩, fun hne => absurd hd hne⟩
  · rw [hq]
    exact ⟨fun hZero => absurd hZero hd, fun _ => ⟨hSigma _,
      fun _ => ⟨rfl, elem_snapshotOver t q.sigma q.osig ht, rfl, rfl⟩, fun hNot => absurd hl hNot⟩⟩
  · rw [hq]
    exact ⟨fun hZero => absurd hZero hd, fun _ => ⟨hSigma _, fun hLe => absurd hLe hl, fun _ => ⟨rfl, rfl, rfl, rfl⟩⟩⟩

theorem bmStep_recurrenceAfter (tb : Tables) {t len : Nat} (disc : List Byte) (ht : t ≤ len) {r : Nat} (hr : 1 ≤ r) :
    BmStep tb t disc r (recurrenceAfter tb t disc (len + 1) (r - 1)).entries
      (recurrenceAfter tb t disc (len + 1) r).entries := by
  obtain ⟨n, rfl⟩ := Nat.exists_eq_add_of_le' hr
  rw [recurrenceAfter_succ]
  refine bmStep_recurrenceStep tb disc (n + 1) ?_
  rw [Nat.add_sub_cancel, (registersInv_recurrenceAfter tb disc ht n).sigma_length]
  exact Nat.lt_succ_of_le ht

/-! ### BMA (R141) -/

theorem exec_bma_of_tv {s : State} (h : s.tv = true) :
    exec .bma s = .next (respond (zext16 (runBm s).l) (runBm s)) :=
  whenReady_of_tv h _

/-- L and MVAL after at most 2·T steps fit their 8 bits (R9, R15). -/
theorem toNat_ofNat_of_le_steps (p : Params) {t n : Nat} (ht : t ≤ p.tmax) (hn : n ≤ 2 * t + 1) :
    (BitVec.ofNat 8 n).toNat = n := by
  have := p.tmax_bounds
  rw [BitVec.toNat_ofNat]
  exact Nat.mod_eq_of_lt (by omega)

/-- Settles O37: the registers q(r) are those of the recurrence after r steps, which the state holds in 8 bits, and
format N leaves the must-be-zero bits 25 to 0. -/
theorem bmaRunsTheRecurrence : Obligations.BmaRunsTheRecurrence := by
  refine ⟨fun s h ht => ?_, fun s h => whenReady_rejected h _, encoded_withOperands .bma⟩
  have hInv := registersInv_recurrenceAfter s.tables s.disc ht (2 * s.t.toNat)
  exact ⟨_, fun r => (recurrenceAfter s.tables s.t.toNat s.disc (s.par.tmax + 1) r).entries, exec_bma_of_tv h,
    entries_start s.par.tmax, fun r hr _ => bmStep_recurrenceAfter s.tables s.disc ht hr, respond_eq _ _,
    hInv.sigma_length, fun _ => rfl, hInv.osig_length, fun _ => rfl,
    toNat_ofNat_of_le_steps s.par ht (Nat.le_succ_of_le hInv.l_le), toNat_ofNat_of_le_steps s.par ht hInv.mval_le, rfl⟩

/-! ### No discrepancy (R141) -/

/-- At L = 0 the discrepancy of step r is DISC[r] alone. -/
theorem stepDiscrepancy_of_l_zero (tb : Tables) (t : Nat) (disc : List Byte) {q : Recurrence} (h : q.l = 0) (r : Nat) :
    stepDiscrepancy tb t disc q r = elem disc r := by
  rw [stepDiscrepancy, h, Nat.zero_min, xorSum_zero]
  exact BitVec.xor_zero

theorem recurrenceAfter_of_zero_disc (tb : Tables) (t : Nat) {disc : List Byte} (len : Nat) {n : Nat}
    (h : ∀ i, 1 ≤ i → i ≤ n → elem disc i = 0) :
    recurrenceAfter tb t disc len n = { Recurrence.start len with mval := n + 1 } := by
  induction n with
  | zero => rfl
  | succ n ih =>
    rw [recurrenceAfter_succ, ih fun i hPos hLe => h i hPos (Nat.le_succ_of_le hLe)]
    have hd : stepDiscrepancy tb t disc { Recurrence.start len with mval := n + 1 } (n + 1) = 0 :=
      (stepDiscrepancy_of_l_zero tb t disc rfl (n + 1)).trans (h (n + 1) (Nat.le_add_left 1 n) (Nat.le_refl _))
    obtain ⟨-, hq⟩ | ⟨hne, -⟩ | ⟨hne, -⟩ :=
      recurrenceStep_cases tb t disc { Recurrence.start len with mval := n + 1 } (n + 1)
    · exact hq
    · exact absurd hd hne
    · exact absurd hd hne

theorem runBm_of_zero_disc {s : State} (h : ∀ i, 1 ≤ i → i ≤ 2 * s.t.toNat → elem s.disc i = 0) :
    runBm s = withRecurrence { Recurrence.start (s.par.tmax + 1) with mval := 2 * s.t.toNat + 1 } s := by
  rw [runBm, recurrenceAfter_of_zero_disc _ _ _ h]

/-- Settles O38: no step finds a discrepancy, so the registers keep their initial values and MVAL counts the steps. -/
theorem bmaOnZeroDiscrepancies : Obligations.BmaOnZeroDiscrepancies := by
  intro s h hDisc
  refine ⟨_, exec_bma_of_tv h.tv, ?_⟩
  rw [runBm_of_zero_disc fun i _ => hDisc i]
  exact ⟨elem_unitVector _, elem_unitVector _, rfl, rfl,
    toNat_ofNat_of_le_steps s.par h.t_le_tmax (Nat.le_refl _)⟩

/-! ### The registers at every step (R142) -/

/-- L grows exactly when 2·L ≤ r − 1, and then r − L is above it. -/
theorem l_recurrenceStep (tb : Tables) (t : Nat) (disc : List Byte) (q : Recurrence) {r : Nat} (hr : 1 ≤ r) :
    (recurrenceStep tb t disc q r).l = q.l ∨
      q.l < (recurrenceStep tb t disc q r).l ∧ (recurrenceStep tb t disc q r).l = r - q.l := by
  obtain ⟨-, hq⟩ | ⟨-, hl, hq⟩ | ⟨-, -, hq⟩ := recurrenceStep_cases tb t disc q r
  · exact .inl (by rw [hq])
  · rw [hq]
    exact .inr ⟨show q.l < r - q.l by omega, rfl⟩
  · exact .inl (by rw [hq])

/-- Settles O39: the invariant of the registers after r − 1 steps, and what step r does to L. -/
theorem recurrenceRegistersStayInRange : Obligations.RecurrenceRegistersStayInRange := by
  intro s r h hr _
  obtain ⟨n, rfl⟩ := Nat.exists_eq_add_of_le' hr
  have hInv := registersInv_recurrenceAfter s.tables s.disc h.t_le_tmax n
  simp only [Nat.add_sub_cancel, recurrenceAfter_succ]
  exact ⟨hInv.l_le, hInv.mval_pos, hInv.mval_le, hInv.b_ne_zero, hInv.sigma_zero, hInv.osig_zero,
    l_recurrenceStep _ _ _ _ hr⟩

end Sys2Proof.Machine
end

section
/-! The Chien search and RECOVER (44_chien_corrector.md R150 to R154). A run of CHIEN changes each bit by whether its
position is marked, and the marks do not depend on DBUF or on the response. RECOVER's discrepancies and recurrence are
those of the entries that R154 lists, however long the memories are. -/

namespace Sys2Proof.Machine

open Sys2Proof.Stated

/-! ### What a run of the search does to the data (R151, R152) -/

theorem exec_chien_of_tv {s : State} (h : s.tv = true) :
    exec .chien s = .next (respond (zext16 (runChien s).flipcnt) (runChien s)) :=
  whenReady_of_tv h _

theorem nodup_markedPositions (s : State) : (markedPositions s).Nodup := List.nodup_range.filter _

theorem bitAt_foldl_flipBit {ps : List Nat} (h : ps.Nodup) (s : State) (p : Nat) :
    bitAt (ps.foldl flipBit s) p = (bitAt s p != decide (p ∈ ps)) := by
  induction ps generalizing s with
  | nil => simp
  | cons q ps ih =>
    obtain ⟨hNotMem, hNodup⟩ := List.nodup_cons.1 h
    rw [List.foldl_cons, ih hNodup, bitAt_flipBit]
    by_cases hpq : p = q
    · subst hpq
      simp [hNotMem]
    · simp [hpq]

theorem bitAt_runChien (s : State) (p : Nat) :
    bitAt (runChien s) p = (bitAt s p != decide (p ∈ markedPositions s)) :=
  (bitAt_congr rfl rfl p).trans (bitAt_foldl_flipBit (nodup_markedPositions s) s p)

theorem marked_eq_decide (s : State) (p : Nat) : marked s p = decide (p ∈ markedPositions s) := by
  rw [marked, evaluation_eq_locatorAt, ← Bool.decide_and]
  exact decide_eq_decide.2 (mem_markedPositions s p).symm

theorem length_filter_marked (s : State) :
    ((List.range 255).filter fun p => marked s p).length = (markedPositions s).length := by
  refine ((List.perm_ext_iff_of_nodup (List.nodup_range.filter _) (nodup_markedPositions s)).2 fun p => ?_).length_eq
  rw [List.mem_filter, marked_eq_decide, decide_eq_true_eq, List.mem_range]
  exact ⟨And.right, fun h => ⟨((mem_markedPositions s p).1 h).1.trans_le (Nat.min_le_left _ _), h⟩⟩

/-- At most 255 positions are marked, so FLIPCNT holds their number (R37). -/
theorem toNat_flipcnt_runChien (s : State) : (runChien s).flipcnt.toNat = (markedPositions s).length := by
  have hLe : (markedPositions s).length ≤ 255 := by
    rw [← length_filter_marked]
    exact (List.length_filter_le _ _).trans List.length_range.le
  exact Nat.mod_eq_of_lt (by omega)

/-- Settles O41: CHIEN answers with `runChien`, whose marked positions are those of the statement, and format N leaves
the must-be-zero bits 25 to 0. -/
theorem chienFlipsTheMarkedPositions : Obligations.ChienFlipsTheMarkedPositions := by
  refine ⟨fun s h => ⟨_, exec_chien_of_tv h, ?_, fun p => ?_, ?_⟩, fun s h => whenReady_rejected h _,
    encoded_withOperands .chien⟩
  · rw [respond_eq]
    conv_lhs => rw [runChien_eq]
    rfl
  · rw [marked_eq_decide]
    exact bitAt_runChien s p
  · rw [length_filter_marked]
    exact toNat_flipcnt_runChien s

/-! ### The waiting response plays no part in a step -/

theorem runBm_respond (v : Half) (s : State) : runBm (respond v s) = respond v (runBm s) := rfl

theorem readDbuf_respond (v : Half) (s : State) (k : Nat) : readDbuf (respond v s) k = readDbuf s k := rfl

theorem markedPositions_respond (v : Half) (s : State) : markedPositions (respond v s) = markedPositions s := rfl

theorem foldl_flipBit_respond (ps : List Nat) (v : Half) (s : State) :
    ps.foldl flipBit (respond v s) = respond v (ps.foldl flipBit s) := by
  induction ps generalizing s with
  | nil => rfl
  | cons p ps ih => exact ih (flipBit s p)

theorem runChien_respond (v : Half) (s : State) : runChien (respond v s) = respond v (runChien s) := by
  rw [runChien, markedPositions_respond, foldl_flipBit_respond]
  rfl

theorem respond_respond (v w : Half) (s : State) : respond v (respond w s) = respond v s := rfl

/-! ### A second run (R237) -/

/-- The search reads nothing that it writes. -/
theorem markedPositions_runChien (s : State) : markedPositions (runChien s) = markedPositions s := by
  rw [runChien_eq]
  rfl

theorem flipcnt_runChien_congr {s u : State} (h : markedPositions u = markedPositions s) :
    (runChien u).flipcnt = (runChien s).flipcnt :=
  congrArg (fun ps : List Nat => BitVec.ofNat 8 ps.length) h

/-- A bit is flipped by both runs or by neither. -/
theorem readDbuf_runChien_runChien (s : State) (k : Nat) : readDbuf (runChien (runChien s)) k = readDbuf s k := by
  refine readDbuf_eq_of_bitAt fun p _ => ?_
  rw [bitAt_runChien, bitAt_runChien, markedPositions_runChien, Bool.bne_assoc, bne_self_eq_false, Bool.bne_false]

/-- Settles O42: the second run starts from the first one's state, finds the same positions and flips them back. -/
theorem chienTwiceRestoresTheData : Obligations.ChienTwiceRestoresTheData := by
  intro s h
  have hCount : (runChien (runChien s)).flipcnt = (runChien s).flipcnt :=
    flipcnt_runChien_congr (markedPositions_runChien s)
  refine ⟨_, _, exec_chien_of_tv h, exec_chien_of_tv ((runChien_tv s).trans h), ?_⟩
  rw [runChien_respond, respond_respond, respond_flipcnt, hCount]
  exact ⟨fun k => by rw [readDbuf_respond, readDbuf_runChien_runChien], hCount, rfl⟩

/-! ### RECOVER as its steps (R153) -/

theorem exec_recover_of_tv {s : State} (h : s.tv = true) :
    exec .recover s = .next (respond (recoverValue (runRecover s)) (runRecover s)) :=
  whenReady_of_tv h _

theorem nodisc_runRecover (s : State) : (runRecover s).nodisc = (compared s).nodisc := by
  obtain h | h := runRecover_cases s
  · rw [h]; rfl
  · rw [h, runChien_nodisc]; rfl

theorem recoverValue_of_discrepancy {s : State} (h : s.nodisc = false) : recoverValue s = zext16 s.flipcnt := by
  rw [recoverValue, h]
  exact BitVec.zero_or

/-- With no discrepancy left VALUE is 0x0100 (R153). -/
theorem recoverValue_of_no_discrepancy {s : State} (h : (compared s).nodisc = true) :
    recoverValue (runRecover s) = 0x0100 := by
  have hFlips : (runRecover s).flipcnt = 0 := by rw [runRecover_of_no_discrepancy h]; rfl
  rw [recoverValue, nodisc_runRecover, h, hFlips]
  rfl

theorem readDbuf_runRecover_of_no_discrepancy {s : State} (h : (compared s).nodisc = true) (k : Nat) :
    readDbuf (runRecover s) k = readDbuf s k := by
  rw [runRecover_of_no_discrepancy h]
  rfl

/-- Settles O43: the state after SYND and DISC is `compared s` with DISC's response, and each case of RECOVER starts
from it; format N leaves the must-be-zero bits 25 to 0. -/
theorem recoverComposesTheFourSteps : Obligations.RecoverComposesTheFourSteps := by
  refine ⟨fun s h => ⟨respond 0 (computeSyndromes s), respond (flagValue (compared s).nodisc) (compared s), _,
    exec_synd_of_tv h, exec_disc_of_tv h, exec_recover_of_tv h, fun hClean => ?_, fun hLeft => ?_⟩,
    fun s h => whenReady_rejected h _, encoded_withOperands .recover⟩
  · have hClean : (compared s).nodisc = true := hClean
    rw [recoverValue_of_no_discrepancy hClean, runRecover_of_no_discrepancy hClean, nothingLocated, Recurrence.start,
      unitVector_succ]
    rfl
  · have hLeft : (compared s).nodisc = false := hLeft
    refine ⟨_, _, exec_bma_of_tv h, exec_chien_of_tv h, ?_⟩
    rw [recoverValue_of_discrepancy ((nodisc_runRecover s).trans hLeft), runRecover_of_discrepancy hLeft, runBm_respond,
      respond_respond, runChien_respond, respond_respond, ← respond_eq]
    rfl

/-! ### RECOVER on data that matches (R153, R155) -/

/-- DISC after RECOVER's steps SYND and DISC, entry by entry (R130, R133). -/
theorem elem_disc_compared {s : State} (h : s.Ready) (i : Nat) :
    elem (compared s).disc i = if 1 ≤ i ∧ i ≤ lastCompared s then syndrome s i ^^^ readRef s i else 0 := by
  refine (elem_discrepancies (computeSyndromes s) h.t_le_tmax i).trans (ite_congr rfl (fun hi => ?_) fun _ => rfl)
  rw [elem_syn_eq_syndrome h.t_le_tmax hi.1 (hi.2.trans (lastCompared_le s))]
  rfl

/-- Settles O46: every discrepancy is a value xor itself, so RECOVER takes its short-circuit. -/
theorem recoverLeavesMatchingDataUnchanged : Obligations.RecoverLeavesMatchingDataUnchanged := by
  intro s h hMatch
  have hDisc : ∀ i, elem (compared s).disc i = 0 := fun i => by
    rw [elem_disc_compared h]
    split
    next hi =>
      rw [hMatch i hi.1 (comparedUpTo_eq_lastCompared s ▸ hi.2), syndromeOf_eq_syndrome]
      exact BitVec.xor_self
    next => rfl
  have hClean : (compared s).nodisc = true := (zeroDiscrepancy_iff _ _).2 fun i _ _ => hDisc i
  refine ⟨_, exec_recover_of_tv h.tv, (nodisc_runRecover s).trans hClean, ?_, ?_,
    readDbuf_runRecover_of_no_discrepancy hClean⟩
  · rw [runRecover_of_no_discrepancy hClean]
    rfl
  · rw [recoverValue_of_no_discrepancy hClean]
    rfl

/-! ### The inputs of RECOVER (R154) -/

theorem bm_ext {q q' : Bm} (hSigma : q'.sigma = q.sigma) (hOsig : q'.osig = q.osig) (hl : q'.l = q.l)
    (hMval : q'.mval = q.mval) (hb : q'.b = q.b) : q' = q := by
  cases q
  cases q'
  exact Bm.mk.injEq .. ▸ ⟨hSigma, hOsig, hl, hMval, hb⟩

/-- A step of the recurrence is a function of the registers' entries and of the entries of DISC (R140). -/
theorem bmStep_unique {tb : Tables} {t r : Nat} {disc disc' : List Byte} {q q₁ q₂ : Bm}
    (hDisc : elem disc' = elem disc) (h₁ : BmStep tb t disc r q q₁) (h₂ : BmStep tb t disc' r q q₂) : q₂ = q₁ := by
  have hSame : bmDiscrepancy tb t disc' q r = bmDiscrepancy tb t disc q r := by
    simp only [bmDiscrepancy, entry_eq_elem, hDisc]
  simp only [BmStep, hSame] at h₁ h₂
  by_cases hd : bmDiscrepancy tb t disc q r = 0
  · obtain ⟨hSigma₁, hOsig₁, hl₁, hMval₁, hb₁⟩ := h₁.1 hd
    obtain ⟨hSigma₂, hOsig₂, hl₂, hMval₂, hb₂⟩ := h₂.1 hd
    exact bm_ext (hSigma₂.trans hSigma₁.symm) (hOsig₂.trans hOsig₁.symm) (hl₂.trans hl₁.symm)
      (hMval₂.trans hMval₁.symm) (hb₂.trans hb₁.symm)
  · obtain ⟨hSigma₁, hGrown₁, hKept₁⟩ := h₁.2 hd
    obtain ⟨hSigma₂, hGrown₂, hKept₂⟩ := h₂.2 hd
    have hSigma : q₂.sigma = q₁.sigma := funext fun k => (hSigma₂ k).trans (hSigma₁ k).symm
    by_cases hl : 2 * q.l ≤ r - 1
    · obtain ⟨hl₁, hOsig₁, hb₁, hMval₁⟩ := hGrown₁ hl
      obtain ⟨hl₂, hOsig₂, hb₂, hMval₂⟩ := hGrown₂ hl
      exact bm_ext hSigma (funext fun k => (hOsig₂ k).trans (hOsig₁ k).symm) (hl₂.trans hl₁.symm)
        (hMval₂.trans hMval₁.symm) (hb₂.trans hb₁.symm)
    · obtain ⟨hl₁, hOsig₁, hb₁, hMval₁⟩ := hKept₁ hl
      obtain ⟨hl₂, hOsig₂, hb₂, hMval₂⟩ := hKept₂ hl
      exact bm_ext hSigma (hOsig₂.trans hOsig₁.symm) (hl₂.trans hl₁.symm) (hMval₂.trans hMval₁.symm)
        (hb₂.trans hb₁.symm)

/-- The recurrence does not see how long its memories are. -/
theorem entries_recurrenceAfter_congr (tb : Tables) {t len len' : Nat} {disc disc' : List Byte} (ht : t ≤ len)
    (ht' : t ≤ len') (hDisc : elem disc' = elem disc) (r : Nat) :
    (recurrenceAfter tb t disc' (len' + 1) r).entries = (recurrenceAfter tb t disc (len + 1) r).entries := by
  induction r with
  | zero => exact (entries_start len').trans (entries_start len).symm
  | succ r ih =>
    have hStep := bmStep_recurrenceAfter tb disc ht (Nat.le_add_left 1 r)
    have hStep' := bmStep_recurrenceAfter tb disc' ht' (Nat.le_add_left 1 r)
    rw [Nat.add_sub_cancel] at hStep hStep'
    rw [ih] at hStep'
    exact bmStep_unique hDisc hStep hStep'

theorem zeroDiscrepancy_congr (t : Nat) {disc disc' : List Byte} (h : elem disc' = elem disc) :
    zeroDiscrepancy t disc' = zeroDiscrepancy t disc := by
  rw [Bool.eq_iff_iff, zeroDiscrepancy_iff, zeroDiscrepancy_iff, h]

/-- The search sees SIGMA entry by entry (R151). -/
theorem markedPositions_congr {s u : State} (hTables : u.tables = s.tables)
    (hExp : u.par.chienExp = s.par.chienExp) (hT : u.t = s.t) (hLen : u.dlen = s.dlen) (hl : u.l = s.l)
    (hSigma : elem u.sigma = elem s.sigma) : markedPositions u = markedPositions s := by
  have hAt : locatorAt u = locatorAt s := by
    funext i
    simp only [locatorAt, hTables, hExp, hT, hl, hSigma]
  rw [markedPositions, hLen, hAt, ← markedPositions]

/-- Two states that agree on what R154 lists. -/
structure SameInputs (s u : State) : Prop where
  chienExp : u.par.chienExp = s.par.chienExp
  dlen : u.dlen = s.dlen
  t : u.t = s.t
  rlen : u.rlen = s.rlen
  ref : ∀ i, 1 ≤ i → i ≤ lastCompared s → readRef u i = readRef s i
  data : ∀ k < s.dlen.toNat, readDbuf u k = readDbuf s k

section
variable {s u : State} (hs : s.Ready) (hu : u.Ready) (h : SameInputs s u)
include h

theorem SameInputs.bitAt_eq {p : Nat} (hp : p < 8 * s.dlen.toNat) : bitAt u p = bitAt s p := by
  rw [bitAt, h.data (p / 8) (by omega), ← bitAt]

theorem SameInputs.lastCompared_eq : lastCompared u = lastCompared s := by
  rw [lastCompared, h.rlen, h.t, ← lastCompared]

include hs hu

theorem SameInputs.syndrome_eq (j : Nat) : syndrome u j = syndrome s j := by
  rw [syndrome, syndrome, hu.tables_eq, hs.tables_eq, h.dlen]
  exact xorSum_congr fun p hp => by rw [h.bitAt_eq hp]

theorem SameInputs.elem_disc_eq : elem (compared u).disc = elem (compared s).disc := by
  funext i
  rw [elem_disc_compared hu, elem_disc_compared hs, h.lastCompared_eq]
  exact ite_congr rfl (fun hi => by rw [h.syndrome_eq hs hu, h.ref i hi.1 hi.2]) fun _ => rfl

theorem SameInputs.nodisc_eq : (compared u).nodisc = (compared s).nodisc :=
  calc (compared u).nodisc = zeroDiscrepancy s.t.toNat (compared u).disc :=
      congrArg (fun t : Byte => zeroDiscrepancy t.toNat (compared u).disc) h.t
    _ = (compared s).nodisc := zeroDiscrepancy_congr _ (h.elem_disc_eq hs hu)

theorem SameInputs.entries_finalRecurrence_eq :
    (finalRecurrence (compared u)).entries = (finalRecurrence (compared s)).entries := by
  have ht : (compared u).t = (compared s).t := h.t
  rw [finalRecurrence, ht]
  exact entries_recurrenceAfter_congr standardTables hs.t_le_tmax (h.t ▸ hu.t_le_tmax) (h.elem_disc_eq hs hu) _

theorem SameInputs.markedPositions_eq :
    markedPositions (runBm (compared u)) = markedPositions (runBm (compared s)) := by
  have hEntries := h.entries_finalRecurrence_eq hs hu
  rw [runBm_eq_finalRecurrence (s := compared u) hu.tables_eq, runBm_eq_finalRecurrence (s := compared s) hs.tables_eq]
  exact markedPositions_congr (hu.tables_eq.trans hs.tables_eq.symm) h.chienExp h.t h.dlen
    (congrArg (fun q : Bm => BitVec.ofNat 8 q.l) hEntries) (congrArg Bm.sigma hEntries)

theorem SameInputs.recoverValue_eq : recoverValue (runRecover u) = recoverValue (runRecover s) := by
  have hNodisc := h.nodisc_eq hs hu
  cases hCase : (compared s).nodisc with
  | true => rw [recoverValue_of_no_discrepancy (hNodisc.trans hCase), recoverValue_of_no_discrepancy hCase]
  | false =>
    have hCaseU := hNodisc.trans hCase
    rw [recoverValue_of_discrepancy ((nodisc_runRecover u).trans hCaseU),
      recoverValue_of_discrepancy ((nodisc_runRecover s).trans hCase), runRecover_of_discrepancy hCaseU,
      runRecover_of_discrepancy hCase, flipcnt_runChien_congr (h.markedPositions_eq hs hu)]

/-- Where the search runs, both states flip the same marked positions of the same data. -/
theorem SameInputs.readDbuf_runRecover_eq {k : Nat} (hk : k < s.dlen.toNat) :
    readDbuf (runRecover u) k = readDbuf (runRecover s) k := by
  have hNodisc := h.nodisc_eq hs hu
  cases hCase : (compared s).nodisc with
  | true =>
    rw [readDbuf_runRecover_of_no_discrepancy (hNodisc.trans hCase), readDbuf_runRecover_of_no_discrepancy hCase,
      h.data k hk]
  | false =>
    rw [runRecover_of_discrepancy (hNodisc.trans hCase), runRecover_of_discrepancy hCase]
    refine readDbuf_eq_of_bitAt fun p hp => ?_
    rw [bitAt_runChien, bitAt_runChien, h.markedPositions_eq hs hu]
    exact congrArg (· != _) (h.bitAt_eq (by omega))

end

/-- Settles O45: with the same inputs the two blocks leave the same discrepancies, so the same locator and the same
marks, and the data at DLEN and above is out of RECOVER's reach. -/
theorem recoverIsAFunctionOfItsInputs : Obligations.RecoverIsAFunctionOfItsInputs := by
  intro s u hs hu hExp hLen hT hRlen hRef hData
  have h : SameInputs s u :=
    ⟨hExp, hLen, hT, hRlen, fun i hPos hLe => hRef i hPos (comparedUpTo_eq_lastCompared s ▸ hLe), hData⟩
  refine ⟨_, _, exec_recover_of_tv hs.tv, exec_recover_of_tv hu.tv, ?_, ?_⟩
  · exact congrArg (fun v => some (responseWord false 0 v)) (h.recoverValue_eq hs hu)
  · simp only [readDbuf_respond]
    exact ⟨fun k hk => h.readDbuf_runRecover_eq hs hu hk, fun k hk => readDbuf_runRecover_of_dlen_le hk,
      fun k hk => readDbuf_runRecover_of_dlen_le (hLen ▸ hk)⟩

end Sys2Proof.Machine
end

section
/-! The host access and housekeeping commands (45_access.md R170 to R182). None of them needs TV = 1: each answers its
value where its operand lies within its bound, and is rejected with RANGE beyond it. -/

namespace Sys2Proof.Machine

open Sys2Proof.Stated

/-! ### NOP and CLRERR (R170, R171) -/

/-- Settles O20: NOP answers with its response alone, and format N leaves the must-be-zero bits 25 to 0. -/
theorem nopRespondsZero : Obligations.NopRespondsZero :=
  ⟨fun s => congrArg Host.Outcome.next (respond_eq 0 s), encoded_withOperands .nop⟩

/-- Settles O21: CLRERR answers with `clearRecord`, and format N leaves the must-be-zero bits 25 to 0. -/
theorem clrerrClearsTheErrorRecord : Obligations.ClrerrClearsTheErrorRecord :=
  ⟨fun s => congrArg Host.Outcome.next (respond_eq 0 (clearRecord s)), encoded_withOperands .clrerr⟩

/-! ### The two outcomes of an access command (R202) -/

theorem whenOperand_range_executed {P : Prop} [Decidable P] (h : P) (s done : State) {v w : Half} (hv : v = w) :
    whenOperand (decide P) .range s (respond v done) = .next { done with rsp := some (executed w) } := by
  rw [whenOperand_of_ok (decide_eq_true h), respond_eq, hv]

theorem whenOperand_range_rejected {P : Prop} [Decidable P] (h : ¬ P) (s done : State) :
    whenOperand (decide P) .range s done = .next (rejected 3 s) := by
  rw [whenOperand_of_not_ok (decide_eq_false h), reject_eq_rejected]
  rfl

/-! ### WRDATA and WRREF (R172, R175) -/

/-- Settles O48: WRDATA answers with `writeDbuf`, which changes what DBUF[X] reads, and format XY leaves the
must-be-zero bits 25 and 24. -/
theorem wrdataStoresOneByte : Obligations.WrdataStoresOneByte := by
  refine ⟨fun s x y hLt => ?_, fun s x y hGe => ?_, encoded_withOperands .wrdata⟩
  · exact ⟨_, whenOperand_range_executed hLt s _ rfl, rfl, fun k => readDbuf_writeDbuf s k x.toNat y⟩
  · exact whenOperand_range_rejected (Nat.not_lt.2 hGe) s _

/-- Settles O49: WRREF answers with `writeRef`, which changes what REF[X] reads, and format XY leaves the must-be-zero
bits 25 and 24. -/
theorem wrrefStoresOneElement : Obligations.WrrefStoresOneElement := by
  refine ⟨fun s x y hLe => ?_, fun s x y hGt => ?_, encoded_withOperands .wrref⟩
  · exact ⟨_, whenOperand_range_executed hLe s _ rfl, rfl, fun k => readRef_writeRef s k x.toNat y⟩
  · exact whenOperand_range_rejected (Nat.not_le.2 hGt) s _

/-! ### SETDLEN and SETRLEN (R174, R177) -/

/-- Settles O50: the two commands answer with `setDlen` and `setRlen`, and format X leaves the must-be-zero bits 25, 24
and 7 to 0. -/
theorem lengthCommandsSetTheirRegister : Obligations.LengthCommandsSetTheirRegister :=
  ⟨fun s _ hLe => whenOperand_range_executed hLe s (setDlen _ s) rfl,
    fun s _ hGt => whenOperand_range_rejected (Nat.not_le.2 hGt) s _,
    encoded_withOperands .setdlen,
    fun s _ hLe => whenOperand_range_executed hLe s (setRlen _ s) rfl,
    fun s _ hGt => whenOperand_range_rejected (Nat.not_le.2 hGt) s _,
    encoded_withOperands .setrlen⟩

/-! ### The reads of an element (R173, R176, R178 to R181) -/

/-- Settles O51: an element of DBUF or REF is the answer inside the memory's bound, and format X leaves the must-be-zero
bits 25, 24 and 7 to 0. -/
theorem bufferReadsRespondWithTheElement : Obligations.BufferReadsRespondWithTheElement :=
  ⟨fun s _ hLt => whenOperand_range_executed hLt s s rfl,
    fun s _ hGe => whenOperand_range_rejected (Nat.not_lt.2 hGe) s _,
    encoded_withOperands .rddata,
    fun s _ hLe => whenOperand_range_executed hLe s s rfl,
    fun s _ hGt => whenOperand_range_rejected (Nat.not_le.2 hGt) s _,
    encoded_withOperands .rdref⟩

/-- R46: SYN and DISC are 0 at index 0 and above 2·T. -/
theorem State.Inv.elem_syn_disc_eq_zero {s : State} (h : s.Inv) {j : Nat}
    (hj : j = 0 ∨ (2 * s.t.toNat < j ∧ j ≤ 2 * s.par.tmax)) : elem s.syn j = 0 ∧ elem s.disc j = 0 := by
  obtain rfl | ⟨hAbove, hLe⟩ := hj
  · exact ⟨h.syn_zero, h.disc_zero⟩
  · exact ⟨h.syn_above j hLe hAbove, h.disc_above j hLe hAbove⟩

/-- Settles O52: an entry of SYN or DISC is the answer for X ≤ 2·TMAX, and the invariants give the entries that are
0. -/
theorem syndromeReadsRespondWithTheElement : Obligations.SyndromeReadsRespondWithTheElement := by
  refine ⟨fun s x hLe => ?_, fun s x hGt => ?_, fun s x h hx => ?_, encoded_withOperands .rdsyn,
    encoded_withOperands .rddisc⟩
  · exact ⟨whenOperand_range_executed hLe s s rfl, whenOperand_range_executed hLe s s rfl⟩
  · have hNot := Nat.not_le.2 hGt
    exact ⟨whenOperand_range_rejected hNot s _, whenOperand_range_rejected hNot s _⟩
  · have hLe : x.toNat ≤ 2 * s.par.tmax := by omega
    obtain ⟨hSyn, hDisc⟩ := h.elem_syn_disc_eq_zero hx
    exact ⟨whenOperand_range_executed hLe s s (congrArg zext16 hSyn),
      whenOperand_range_executed hLe s s (congrArg zext16 hDisc)⟩

/-- Settles O53: a coefficient of SIGMA or OSIG is the answer for X ≤ TMAX, and the invariants give the coefficients at
0 and above T. -/
theorem locatorReadsRespondWithTheCoefficient : Obligations.LocatorReadsRespondWithTheCoefficient := by
  refine ⟨fun s x hLe => ?_, fun s x hGt => ?_, fun s h => ?_, fun s x h hAbove hLe => ?_,
    encoded_withOperands .rdsig, encoded_withOperands .rdosig⟩
  · exact ⟨whenOperand_range_executed hLe s s rfl, whenOperand_range_executed hLe s s rfl⟩
  · have hNot := Nat.not_le.2 hGt
    exact ⟨whenOperand_range_rejected hNot s _, whenOperand_range_rejected hNot s _⟩
  · have hLe := Nat.zero_le s.par.tmax
    exact ⟨whenOperand_range_executed hLe s s (congrArg zext16 h.sigma_zero),
      whenOperand_range_executed hLe s s (congrArg zext16 h.osig_zero)⟩
  · exact ⟨whenOperand_range_executed hLe s s (congrArg zext16 (h.sigma_above _ hLe hAbove)),
      whenOperand_range_executed hLe s s (congrArg zext16 (h.osig_above _ hLe hAbove))⟩

/-! ### RDREG (R41, R42, R182) -/

theorem toNat_zext16 (v : Byte) : (zext16 v).toNat = v.toNat := BitVec.toNat_setWidth_of_le (by decide)

theorem toNat_chienMode (e : ChienExp) : (chienMode e).toNat = if e = .reciprocal then 0 else 1 := by
  cases e <;> rfl

/-- A view is the number R42 gives for its register; TMAX and DMAX fit 16 bits by R9 and R10. -/
theorem toNat_of_regView {s : State} {reg : Byte} {v : Half} (h : regView s reg = some v) :
    v.toNat = (views s).getD reg.toNat 0 := by
  have hTmax := s.par.tmax_bounds.2
  have hDmax := s.par.dmax_bounds.2
  unfold regView at h
  split at h <;> rename_i hReg <;> cases h <;> rw [hReg]
  case h_1 => exact toNat_statusView s
  case h_3 | h_4 => rfl
  case h_9 | h_10 => exact (BitVec.toNat_ofNat ..).trans (Nat.mod_eq_of_lt (by omega))
  case h_11 => exact toNat_chienMode s.par.chienExp
  case h_2 | h_5 | h_6 | h_7 | h_8 => exact toNat_zext16 _

theorem exec_rdreg_of_view {s : State} {reg : Byte} {v : Half} (h : regView s reg = some v) :
    exec (.rdreg reg) s = .next { s with rsp := some (executed v) } := by
  simp only [exec, execRdreg, h, respond_eq]

/-- Settles O54: the numbers 0..10 have a view and the others are rejected with RANGE, and format Y leaves the
must-be-zero bits 25 to 8. -/
theorem rdregRespondsWithTheView : Obligations.RdregRespondsWithTheView := by
  refine ⟨fun s reg hLe => ?_, fun s reg hGt => ?_, encoded_withOperands .rdreg⟩
  · have hSome := (regView_isSome s reg).trans (decide_eq_true hLe)
    obtain ⟨v, hv⟩ := Option.isSome_iff_exists.1 hSome
    exact ⟨v, exec_rdreg_of_view hv, toNat_of_regView hv⟩
  · have hNone := (regView_isSome s reg).trans (decide_eq_false (Nat.not_le.2 hGt))
    have hReject : rejectionOf s (.rdreg reg) = some .range := causeUnless_eq_some.2 ⟨hNone, rfl⟩
    rw [exec_of_rejection hReject, reject_eq_rejected]
    rfl

end Sys2Proof.Machine
end

section
/-! The rejections of the cause table (60_exceptions.md R200 to R203) and what the port does with an untaken response
(R204, 70_reset_and_hazards.md R232, R233). An accepted word always has a next state: the rejection of its column of R202,
or the response and the effect of its command. So a step without a next state can only be the stall of the port. -/

namespace Sys2Proof.Machine

open Sys2Proof.Stated

/-! ### The outcome of an accepted word (R202, R203) -/

theorem acceptWord_of_rejection {w : Word} {s : State} {c : Cause} (h : wordRejection s w = some c) :
    acceptWord w s = .next (reject c s) := by
  unfold wordRejection at h
  cases hd : decode w with
  | error e =>
    rw [hd] at h
    cases h
    exact acceptWord_error hd s
  | ok i =>
    rw [hd] at h
    rw [acceptWord_ok hd, exec_of_rejection h]

theorem acceptWord_of_no_rejection {w : Word} {s : State} (h : wordRejection s w = none) :
    ∃ i v, acceptWord w s = .next (respond v (effectOf s i)) := by
  unfold wordRejection at h
  cases hd : decode w with
  | error e =>
    rw [hd] at h
    cases h
  | ok i =>
    rw [hd] at h
    obtain ⟨v, hv⟩ := exec_of_no_rejection h
    exact ⟨i, v, (acceptWord_ok hd s).trans hv⟩

theorem acceptWord_next (w : Word) (s : State) : ∃ t, acceptWord w s = .next t := by
  cases hc : wordRejection s w with
  | some c => exact ⟨_, acceptWord_of_rejection hc⟩
  | none =>
    obtain ⟨i, v, hv⟩ := acceptWord_of_no_rejection hc
    exact ⟨_, hv⟩

/-- Settles O7: the column of R202 is the rejection of the word, which answers with `reject`; a word without one executes
its command and answers with `respond`. -/
theorem rejectionsAreThoseOfTheCauseTable : Obligations.RejectionsAreThoseOfTheCauseTable := by
  intro s w rest hOffers
  obtain ⟨hInputs, hRsp⟩ := hOffers
  have hCause : causeOf s.par s.tv w = causeCode (wordRejection (advanceTo rest s) w) :=
    causeOf_eq_causeCode (advanceTo rest s) w
  rw [step_command_none hInputs hRsp, hCause]
  cases hc : wordRejection (advanceTo rest s) w with
  | some c =>
    refine ⟨fun _ => ?_, fun hZero => ?_⟩
    · rw [acceptWord_of_rejection hc, reject_eq_rejected]
      rfl
    · cases causeCode_eq_zero_iff.1 hZero
  | none =>
    refine ⟨fun hNonzero => absurd rfl hNonzero, fun _ => ?_⟩
    obtain ⟨i, v, hv⟩ := acceptWord_of_no_rejection hc
    exact ⟨_, v, hv, congrArg State.rsp (respond_eq v _)⟩

/-! ### The stall of the port (R204, R233) -/

theorem step_idle {s : State} (h : s.inputs = []) : step s = .next s := by
  simp [step, portStep, h]

theorem step_takeResponse {s : State} {rest : List HostAction} (h : s.inputs = .takeResponse :: rest) :
    step s = .next (takeResponse (advanceTo rest s)) := by
  simp [step, portStep, h]

theorem notStalled_iff (s : State) :
    s.NotStalled ↔ ¬ ∃ w rest r, s.inputs = .command w :: rest ∧ s.rsp = some r := by
  constructor
  · rintro h ⟨w, rest, r, hInputs, hRsp⟩
    cases (h w rest hInputs).symm.trans hRsp
  · intro h w rest hInputs
    exact Option.eq_none_iff_forall_ne_some.2 fun r hRsp => h ⟨w, rest, r, hInputs, hRsp⟩

theorem step_of_notStalled {s : State} (h : s.NotStalled) : ∃ t, step s = .next t := by
  match hInputs : s.inputs with
  | [] => exact ⟨s, step_idle hInputs⟩
  | .command w :: rest =>
    rw [step_command_none hInputs (h w rest hInputs)]
    exact acceptWord_next w _
  | .takeResponse :: rest => exact ⟨_, step_takeResponse hInputs⟩
  | .reset :: rest => exact ⟨_, step_reset (.inl hInputs)⟩
  | .resetDuring w :: rest => exact ⟨_, step_reset (.inr ⟨w, hInputs⟩)⟩

/-- Settles O10: a stalled port answers its fault, and in every other state the step has a next state. -/
theorem onlyAnUntakenResponseStopsTheStep : Obligations.OnlyAnUntakenResponseStopsTheStep := by
  intro s
  by_cases hStalled : ∃ w rest r, s.inputs = .command w :: rest ∧ s.rsp = some r
  · have ⟨w, rest, r, hInputs, hRsp⟩ := hStalled
    rw [step_command_some hInputs hRsp]
    exact ⟨iff_of_true ⟨_, rfl⟩ hStalled, nofun⟩
  · obtain ⟨t, ht⟩ := step_of_notStalled ((notStalled_iff s).2 hStalled)
    rw [ht]
    exact ⟨iff_of_false nofun hStalled, nofun⟩

/-! ### Taking a response, and an idle block (R216, R232, R233) -/

theorem takeResponse_of_waiting {s : State} {r : Word} (h : s.rsp = some r) :
    takeResponse s = { s with rsp := none, taken := s.taken ++ [r] } := by
  rw [takeResponse, h]
  rfl

/-- Settles O11: the taken response moves to the host's record, and the idle block keeps its state. -/
theorem takingAResponseTouchesThePortOnly : Obligations.TakingAResponseTouchesThePortOnly := by
  refine ⟨fun s rest r hInputs hRsp => ?_, fun s hInputs => step_idle hInputs⟩
  rw [step_takeResponse hInputs, takeResponse_of_waiting (s := advanceTo rest s) hRsp]
  rfl

end Sys2Proof.Machine
end

section
/-! The hazards and reset chapter's remaining claims (70_reset_and_hazards.md R232, R236). An accepted word answers at the
port and leaves the rest of it. A locator of length 0 is the constant 1, so no position is one of its roots and the
search after a clean comparison marks nothing. -/

namespace Sys2Proof.Machine

open Sys2Proof.Stated

/-! ### What an accepted word does to the port (R232) -/

@[simp] theorem runChien_inputs (s : State) : (runChien s).inputs = s.inputs := by rw [runChien_eq]
@[simp] theorem runChien_taken (s : State) : (runChien s).taken = s.taken := by rw [runChien_eq]
@[simp] theorem runRecover_inputs (s : State) : (runRecover s).inputs = s.inputs := by rw [runRecover_eq]
@[simp] theorem runRecover_taken (s : State) : (runRecover s).taken = s.taken := by rw [runRecover_eq]

/-- No command writes the host's side of the port or the reset counter. -/
theorem effectOf_port (s : State) (i : Instr) : (effectOf s i).taken = s.taken ∧
    (effectOf s i).inputs = s.inputs ∧ (effectOf s i).resets = s.resets := by
  cases i with
  | init c => exact ⟨construct_taken s c, construct_inputs s c, construct_resets s c⟩
  | chien => exact ⟨runChien_taken s, runChien_inputs s, runChien_resets s⟩
  | recover => exact ⟨runRecover_taken s, runRecover_inputs s, runRecover_resets s⟩
  | _ => exact ⟨rfl, rfl, rfl⟩

theorem acceptWord_port {w : Word} {s t : State} (h : acceptWord w s = .next t) :
    (∃ r, t.rsp = some r) ∧ t.taken = s.taken ∧ t.inputs = s.inputs ∧ t.resets = s.resets := by
  obtain ⟨c, -, rfl⟩ | ⟨i, v, -, -, rfl⟩ := acceptWord_cases h
  · exact ⟨⟨_, rfl⟩, rfl, rfl, rfl⟩
  · exact ⟨⟨_, rfl⟩, effectOf_port s i⟩

/-- Settles O9: the word is accepted in the state that has consumed it, where it always has a next state. -/
theorem acceptedWordYieldsOneResponse : Obligations.AcceptedWordYieldsOneResponse := by
  rintro s w rest ⟨hInputs, hRsp⟩
  obtain ⟨t, ht⟩ := acceptWord_next w (advanceTo rest s)
  obtain ⟨⟨r, hr⟩, hTaken, hRest, hResets⟩ := acceptWord_port ht
  exact ⟨t, r, (step_command_none hInputs hRsp).trans ht, hr, hTaken, hRest,
    acceptWord_par (s := advanceTo rest s) ht, hResets⟩

/-! ### The search after a comparison without a discrepancy (R236) -/

theorem chienExponent_zero_left (e : ChienExp) (i : Nat) : chienExponent e 0 i = 0 := by
  cases e <;> simp [chienExponent, Config.n]

theorem locatorAt_of_l_zero {s : State} (hTables : s.tables = standardTables) (hl : s.l = 0)
    (hSigma : elem s.sigma 0 = 1) (i : Nat) : locatorAt s i = 1 := by
  have hCount : min s.l.toNat s.t.toNat + 1 = 1 := by rw [hl]; exact congrArg (· + 1) (Nat.zero_min _)
  rw [locatorAt, hCount, hTables, xorSum_succ, xorSum_zero, chienExponent_zero_left, hSigma]
  rfl

theorem markedPositions_of_l_zero {s : State} (hTables : s.tables = standardTables) (hl : s.l = 0)
    (hSigma : elem s.sigma 0 = 1) : markedPositions s = [] := by
  refine List.eq_nil_iff_forall_not_mem.2 fun i hi => ?_
  have hRoot : locatorAt s i = 0 := ((mem_markedPositions s i).1 hi).2
  rw [locatorAt_of_l_zero hTables hl hSigma] at hRoot
  cases hRoot

theorem runChien_of_no_marked {s : State} (h : markedPositions s = []) : runChien s = { s with flipcnt := 0 } := by
  rw [runChien, h]
  rfl

/-- BMA and CHIEN with nothing to correct: RECOVER's short-circuit, but MVAL counts the 2·T steps (R153, R236). -/
def searchedInVain (s : State) : State := { nothingLocated s with mval := BitVec.ofNat 8 (2 * s.t.toNat + 1) }

theorem readDbuf_searchedInVain (s : State) (k : Nat) : readDbuf (searchedInVain s) k = readDbuf s k := rfl

theorem runChien_runBm_of_zero_disc {s : State} (hTables : s.tables = standardTables)
    (h : ∀ i, 1 ≤ i → i ≤ 2 * s.t.toNat → elem s.disc i = 0) : runChien (runBm s) = searchedInVain s := by
  rw [runBm_of_zero_disc h]
  exact runChien_of_no_marked (markedPositions_of_l_zero hTables rfl (elem_unitVector _ 0))

theorem exec_bma_chien_of_zero_disc {s : State} (hTv : s.tv = true) (hTables : s.tables = standardTables)
    (h : ∀ i, 1 ≤ i → i ≤ 2 * s.t.toNat → elem s.disc i = 0) :
    ∃ s3, exec .bma s = .next s3 ∧ exec .chien s3 = .next (respond 0 (searchedInVain s)) := by
  refine ⟨_, exec_bma_of_tv hTv, ?_⟩
  rw [exec_chien_of_tv (s := respond _ (runBm s)) hTv, runChien_respond, respond_respond,
    runChien_runBm_of_zero_disc hTables h]
  rfl

/-- Settles O44: NODISC says that every discrepancy is 0, so the state that DISC leaves is searched in vain. -/
theorem stepwiseDecodeOfCleanData : Obligations.StepwiseDecodeOfCleanData := by
  intro s s2 h hDisc hClean
  rw [exec_disc_of_tv h.tv] at hDisc
  obtain ⟨v, rfl⟩ : ∃ v, s2 = respond v (computeDiscrepancy s) := ⟨_, (Host.Outcome.next.inj hDisc).symm⟩
  have hZero := (zeroDiscrepancy_iff s.t.toNat (discrepancies s)).1 hClean
  obtain ⟨s3, hBma, hChien⟩ :=
    exec_bma_chien_of_zero_disc (s := respond v (computeDiscrepancy s)) h.tv h.tables_eq hZero
  have hData : ∀ k, readDbuf (respond v (computeDiscrepancy s)) k = readDbuf s k := fun _ => rfl
  exact ⟨s3, _, hBma, hChien, elem_unitVector _, rfl, toNat_ofNat_of_le_steps s.par h.t_le_tmax (Nat.le_refl _), rfl,
    fun k => (readDbuf_searchedInVain _ k).trans (hData k)⟩

end Sys2Proof.Machine
end
